-- ==== Sys2Proof/Word.lean ====
section
/-! DEFINITION. The words the block works on: 64-bit registers and operands, the command and response records. -/

namespace Sys2Proof

/-- A register, an operand word or a 64-bit result: bit 63 is the most significant bit (00_scope section 4, R20). -/
abbrev Word := BitVec 64

/-- The 131 bits of a command: `op`, then operand word `A`, then operand word `B` (R60). -/
abbrev CommandRecord := BitVec 131

/-- The 256 bits `P` of a response (R63). -/
abbrev Payload := BitVec 256

/-- The 259 bits of a response: the 3-bit status, then `P` (R63). -/
abbrev ResponseRecord := BitVec 259

end Sys2Proof
end

