-- ==== Sys2Proof/Config.lean ====
section
/-! DEFINITION. What the spec leaves to each implementation and the model leaves free: NAN_DRAW (R7, R92, D15).
There is one sequence of draws, so two instances at the same count draw alike: DESIGN CHOICE, where the spec leaves
each draw free (R7, R195; assumption log 3). The other open parameter, HARDENED_RANGE, is a field of State (log 2). -/

namespace Sys2Proof.Config

/-- The sign bit of the n-th NaN drawn: nothing constrains it (R92, U6; assumption log 3). -/
opaque nanSign : Nat → BitVec 1

/-- The fraction field of the n-th NaN drawn, less one: `F` is any of the 2^52 - 1 non-zero values of 52 bits,
the one limit R92 sets (assumption log 3). -/
opaque nanFraction : Nat → Fin 4503599627370495

end Sys2Proof.Config
end

