-- ==== Sys2Proof/Syntax.lean ====
section
/-! DEFINITION. The instructions: one constructor per row of spec/opcode_table.json (R61). -/

namespace Sys2Proof

/-- A command. Every encoding carries both operand words `a` (`A`) and `b` (`B`), the ones the operation ignores
too (R60, R62), so no bit of a record is lost. -/
inductive Instr where
  /-- SEED, op 0: `a` is the seed (R100). -/
  | seed (a b : Word)
  /-- STEP, op 1 (R120). -/
  | step (a b : Word)
  /-- FRAC, op 2 (R140). -/
  | frac (a b : Word)
  /-- RAND0, op 3 (R150). -/
  | rand0 (a b : Word)
  /-- RAND1, op 4: `a` is the bound m (R151). -/
  | rand1 (a b : Word)
  /-- RAND2, op 5: `a` is the lower bound m, `b` the upper bound n (R152). -/
  | rand2 (a b : Word)
  /-- DUMP, op 6 (R170). -/
  | dump (a b : Word)
  /-- ILL, op 7, the reserved encoding (R65). -/
  | ill (a b : Word)
deriving DecidableEq, Repr

end Sys2Proof
end

