-- ==== Sys2Proof/Machine/State.lean ====
section
/-! DEFINITION. The state of the block and its reset value (10_state, R20 to R36), and the reasons a step can stop. -/

namespace Sys2Proof.Machine

/-- A GeneratorState: the four registers `r[0..3]` (R20), each tied for ever to the slot of its index (R21). -/
structure Regs where
  r0 : Word
  r1 : Word
  r2 : Word
  r3 : Word
deriving DecidableEq, Repr

/-- The conditions a command can raise (R180). They are answers of the block, not stops: the next command is taken
as if nothing had happened (R187). -/
inductive Condition where
  /-- SEED with a non-finite operand (R181). -/
  | invalidSeed
  /-- RAND2 with n < m while HARDENED_RANGE = 1 (R182). -/
  | invalidRange
  /-- Any operation but SEED, and but the reserved opcode, before a SEED has completed (R183). -/
  | notSeeded
  /-- The reserved opcode 7 (R184). -/
  | illegalOp
deriving DecidableEq, Repr

/-- The status of a response: `OK`, or the condition raised (R64). The codes 5, 6 and 7 do not exist. -/
inductive Status where
  | ok
  | raised (c : Condition)
deriving DecidableEq, Repr

/-- A response: status and payload (R63). -/
structure Response where
  status  : Status
  payload : Payload
deriving DecidableEq, Repr

/-- What the host can do to the block (R40, R210): issue a command, or apply reset. -/
inductive HostEvent where
  | command (w : CommandRecord)
  | reset
deriving DecidableEq, Repr

/-- The state. `regs` is the register file together with the `seeded` flag: the registers hold a value exactly
while `seeded = 1` (R22, R35; assumption log 1). `hardenedRange` is the strap HARDENED_RANGE (R7, R25; log 2).
`response` is what stands on the response port (R63; log 5). `host` and `nanDraws` are the model's own: the events
the host has still to apply (log 4) and the counter at which NAN_DRAW is read (log 3). -/
structure State where
  regs          : Option Regs
  hardenedRange : Bool
  response      : Option Response
  host          : List HostEvent
  nanDraws      : Nat
deriving DecidableEq, Repr

/-- Reasons for which the machine stops: there are none. The block never stops, whatever the host does: a fault of
the spec is the answer to one command and leaves the block ready for the next (R187, R224; assumption log 9). -/
inductive Fault where
deriving DecidableEq, Repr

/-- Reasons for which the model has no meaning for a command. -/
inductive Refusal where
  /-- The model gives the instruction no meaning yet: raised by no arm of exec, since all have one (safe). -/
  | notModelled (mnemonic : String)
deriving DecidableEq, Repr

/-- Right after reset (R35, R210): `seeded = 0` and the registers hold no value, nothing pending on the port, the
strap at its default 0 (R7); the host has issued nothing and no NaN has been drawn. -/
def State.reset : State where
  regs          := none
  hardenedRange := false
  response      := none
  host          := []
  nanDraws      := 0

end Sys2Proof.Machine
end

