-- ==== Sys2Proof/Machine/Flags.lean ====
section
/-! DEFINITION. The one flag of the block, `seeded` (R22, R24): set with the registers by a SEED that completes,
cleared by reset, written by nothing else. -/

namespace Sys2Proof.Machine

/-- `seeded`: 1 exactly while the registers hold a GeneratorState (R22). -/
def State.seeded (s : State) : Bool := s.regs.isSome

/-- The registers written and `seeded` set to 1, or kept at 1 where the operation is a step (R22, R109). -/
def State.writeRegs (s : State) (r : Regs) : State := { s with regs := some r }

/-- `seeded` cleared: the registers hold no value from here on (R22, R210). -/
def State.clearSeeded (s : State) : State := { s with regs := none }

end Sys2Proof.Machine
end

