-- ==== Sys2Proof/Machine/Constants.lean ====
section
/-! DEFINITION. The constants of the block (R6): the slot table, the seed constants, the extractor's patterns. -/

namespace Sys2Proof.Machine

/-- The parameter triple of a slot (R67). -/
structure SlotParams where
  k : Nat
  q : Nat
  s : Nat
deriving DecidableEq, Repr

/-- The slot parameter table (R6, R21, R67). -/
def slot : Fin 4 → SlotParams
  | 0 => ⟨63, 31, 18⟩
  | 1 => ⟨58, 19, 28⟩
  | 2 => ⟨55, 24, 7⟩
  | 3 => ⟨47, 21, 8⟩

/-- The four slots in the order in which they are always processed (R102, R127). -/
def slotOrder : List (Fin 4) := [0, 1, 2, 3]

/-- The 64-bit word with every bit set (R69). -/
def allOnes : Word := 0xFFFFFFFFFFFFFFFF

/-- How many combined steps SEED performs and discards (R6, R108). -/
def warmUpSteps : Nat := 10

/-- The seed shift constant: byte i is `64 - k_i`, slot 0 in the lowest byte (R68). -/
def seedShifts : BitVec 32 := 0x11090601

/-- `shift_i`, byte i of the constant, "read low byte first" (R44, R68, R103). -/
def seedShift (i : Fin 4) : Nat := (seedShifts.extractLsb' (8 * i.val) 8).toNat

/-- The binary64 pattern of the seed multiplier (R91). -/
def pi64 : Word := 0x400921FB54442D18

/-- The binary64 pattern of the seed addend (R91). -/
def e64 : Word := 0x4005BF0A8B145769

/-- The pattern of 1.0, also the sign and exponent bits of the values in [1, 2) (R70). -/
def one64 : Word := 0x3FF0000000000000

/-- The mask of the low 52 bits (R70). -/
def mant52 : Word := 0x000FFFFFFFFFFFFF

end Sys2Proof.Machine
end

