-- ==== Sys2Proof/Machine/Numerics.lean ====
section
/-! DEFINITION. binary64 over 64-bit patterns and exact values (40_numerics, R80 to R93), and the 64-bit integer
primitives (R94 to R97).

An operation answers `none` where its rule yields NaN: which NaN pattern is left open (R92), and no rule looks at
it, since a NaN operand makes every one of them yield NaN again. -/

namespace Sys2Proof.Machine

/-- The sign bit `S` (R80). -/
def signBit (p : Word) : Bool := p.getLsbD 63

/-- The exponent field `E` (R80). -/
def expField (p : Word) : Nat := (p.extractLsb' 52 11).toNat

/-- The fraction field `F` (R80). -/
def fracField (p : Word) : Nat := (p.extractLsb' 0 52).toNat

/-- A pattern from its three fields (R80). -/
def pattern (sign : Bool) (e f : Nat) : Word :=
  BitVec.ofBool sign ++ BitVec.ofNat 11 e ++ BitVec.ofNat 52 f

/-- The infinity of a sign (R81). -/
def infinity (sign : Bool) : Word := pattern sign 2047 0

/-- The zero of a sign (R81). -/
def zero (sign : Bool) : Word := pattern sign 0 0

/-- The classes of R81. A finite datum is its sign and its magnitude in units of 2^-1074, the value of the least
subnormal, of which every finite magnitude is a multiple: zero is the magnitude 0. -/
inductive Datum where
  | nan
  | inf (sign : Bool)
  | fin (sign : Bool) (mag : Nat)
deriving DecidableEq, Repr

/-- The magnitude of a finite pattern in units of 2^-1074: `F` where `E = 0`, else `(2^52 + F) * 2^(E-1)` (R81). -/
def magnitude (p : Word) : Nat :=
  if expField p = 0 then fracField p else (2 ^ 52 + fracField p) * 2 ^ (expField p - 1)

/-- `is_finite` (R82). -/
def isFinite (p : Word) : Bool := expField p != 2047

/-- A NaN of any kind: exponent field all ones, fraction not zero (R81). -/
def isNaN (p : Word) : Bool := expField p == 2047 && fracField p != 0

/-- The class and value of a pattern (R81). -/
def classify (p : Word) : Datum :=
  if isFinite p then .fin (signBit p) (magnitude p)
  else if isNaN p then .nan
  else .inf (signBit p)

/-- A count of units of 2^-1074 with its sign, as an exact integer (R81). -/
def signed (sign : Bool) (mag : Nat) : Int := if sign then -(mag : Int) else mag

/-- The integer nearest to `n / d`, ties to the even one (the choice of `N` in R83). -/
def roundHalfEven (n d : Nat) : Nat :=
  let lo := n / d
  if 2 * (n % d) < d then lo
  else if d < 2 * (n % d) then lo + 1
  else if lo % 2 = 0 then lo else lo + 1

/-- `RNE` (R83) of the exact non-zero rational whose sign is `sign` and whose magnitude is `num / den`. With
`u = e + 1074`, `u - 52` is the exponent of `ulp` in units of 2^-1074: the least `e`, -1022, gives `u = 52`. -/
def rne (sign : Bool) (num den : Nat) : Word :=
  let u := max (Nat.log2 (num * 2 ^ 1074 / den)) 52
  let n := roundHalfEven (num * 2 ^ 1074) (den * 2 ^ (u - 52))
  let carry := n == 2 ^ 53
  let n := if carry then 2 ^ 52 else n
  let u := if carry then u + 1 else u
  if 1023 + 1074 < u then infinity sign
  else if n < 2 ^ 52 then pattern sign 0 n
  else pattern sign (u - 51) (n - 2 ^ 52)

/-- `fmul` (R84): one rounding of the exact product. -/
def fmul (a b : Word) : Option Word :=
  match classify a, classify b with
  | .nan, _ => none
  | _, .nan => none
  | .inf s, .inf t => some (infinity (s ^^ t))
  | .inf s, .fin t m => if m = 0 then none else some (infinity (s ^^ t))
  | .fin s m, .inf t => if m = 0 then none else some (infinity (s ^^ t))
  | .fin s m, .fin t n =>
    if m = 0 ∨ n = 0 then some (zero (s ^^ t)) else some (rne (s ^^ t) (m * n) (2 ^ 1074 * 2 ^ 1074))

/-- `fadd` (R85): one rounding of the exact sum. -/
def fadd (a b : Word) : Option Word :=
  match classify a, classify b with
  | .nan, _ => none
  | _, .nan => none
  | .inf s, .inf t => if s = t then some (infinity s) else none
  | .inf s, .fin _ _ => some (infinity s)
  | .fin _ _, .inf t => some (infinity t)
  | .fin s m, .fin t n =>
    let x := signed s m + signed t n
    if x = 0 then some (zero (m == 0 && n == 0 && s && t)) else some (rne (decide (x < 0)) x.natAbs (2 ^ 1074))

/-- The pattern with its sign bit inverted (R86). -/
def negate (b : Word) : Word := b ^^^ 0x8000000000000000

/-- `fsub(a, b) = fadd(a, b')` (R86). -/
def fsub (a b : Word) : Option Word := fadd a (negate b)

/-- `ffloor` (R87): the pattern of the largest integer not above the value. For a negative value that integer is
the negative of the magnitude rounded up. The integer is always representable, so `rne` does not round. -/
def ffloor (a : Word) : Option Word :=
  match classify a with
  | .nan => none
  | .inf _ => some a
  | .fin s m =>
    if m = 0 then some a
    else if s then some (rne true ((m + (2 ^ 1074 - 1)) / 2 ^ 1074) 1)
    else if m < 2 ^ 1074 then some (zero false)
    else some (rne false (m / 2 ^ 1074) 1)

/-- `flt` (R88): ordered less-than, false on a NaN, with `-0` equal to `+0`. -/
def flt (a b : Word) : Bool :=
  match classify a, classify b with
  | .nan, _ => false
  | _, .nan => false
  | .inf s, .inf t => s && !t
  | .inf s, .fin _ _ => s
  | .fin _ _, .inf t => !t
  | .fin s m, .fin t n => decide (signed s m < signed t n)

/-- `shl64`: logical left shift, bits past bit 63 lost (R94). -/
def shl64 (v : Word) (n : Nat) : Word := v <<< n

/-- `shr64`: logical right shift, zeros enter at the top (R94). -/
def shr64 (v : Word) (n : Nat) : Word := v >>> n

/-- `add64`: addition modulo 2^64 (R95). -/
def add64 (a b : Word) : Word := a + b

/-- `ult64`: unsigned comparison (R96). -/
def ult64 (a b : Word) : Bool := a.ult b

end Sys2Proof.Machine
end

