-- ==== Sys2Proof/Machine/Operands.lean ====
section
/-! DEFINITION. The operand and result forms. An operand word is the binary64 pattern itself (R62), so reading one
needs no function; what needs one is the register file by slot number, the widening of results, and NaN results. -/

namespace Sys2Proof.Machine

/-- `r[i]` (R20). -/
def Regs.get (r : Regs) : Fin 4 → Word
  | 0 => r.r0
  | 1 => r.r1
  | 2 => r.r2
  | 3 => r.r3

/-- `r[i] <- v` (R20). -/
def Regs.set (r : Regs) (i : Fin 4) (v : Word) : Regs :=
  match i with
  | 0 => { r with r0 := v }
  | 1 => { r with r1 := v }
  | 2 => { r with r2 := v }
  | 3 => { r with r3 := v }

/-- `zext_256`: a 64-bit result in `P[63:0]`, the rest 0 (R63). -/
def zext256 (v : Word) : Payload := v.setWidth 256

/-- DUMP's payload `r[3] ‖ r[2] ‖ r[1] ‖ r[0]` (R63, R170). -/
def dumpPayload (r : Regs) : Payload := r.r3 ++ r.r2 ++ r.r1 ++ r.r0

/-- Exponent field all ones and fraction `f + 1`, so never 0: the NaN patterns, all of them and no other (R92). -/
def nanPattern (sign : BitVec 1) (f : Fin 4503599627370495) : Word :=
  sign ++ BitVec.ofNat 11 2047 ++ BitVec.ofNat 52 (f.val + 1)

/-- NAN_DRAW for the operation that runs next (R7, R92). DESIGN CHOICE, unsafe for claims that compare two instances or
two runs: it is read at the count alone, so at the same count they draw the same pattern, where the spec leaves every
draw free (R7, R195; assumption log 3). -/
def State.nanDraw (s : State) : Word :=
  nanPattern (Config.nanSign s.nanDraws) (Config.nanFraction s.nanDraws)

/-- The draw is spent. -/
def State.spendDraw (s : State) : State := { s with nanDraws := s.nanDraws + 1 }

/-- The pattern of a result, the drawn NaN where its rule yields NaN (R92). -/
def settle (draw : Word) (v : Option Word) : Word := v.getD draw

end Sys2Proof.Machine
end

