-- ==== Sys2Proof/Machine/Ops.lean ====
section
/-! DEFINITION. The shared operations on the state: responding, raising a condition, reset, and the seeded check.
There is no return from a condition: the command is complete once its response is given (R188). -/

namespace Sys2Proof.Machine

/-- The code of a condition (R64, R180). -/
def Condition.code : Condition → BitVec 3
  | .invalidSeed => 1
  | .invalidRange => 2
  | .notSeeded => 3
  | .illegalOp => 4

/-- The code of a status (R64). -/
def Status.code : Status → BitVec 3
  | .ok => 0
  | .raised c => c.code

/-- The response record `status ‖ P` (R63). -/
def Response.record (r : Response) : ResponseRecord := r.status.code ++ r.payload

/-- What a command answers. -/
abbrev Result := Host.Outcome State Fault Refusal

/-- The state with a response on the port in place of the one before it (R48, R63; assumption log 5). -/
def State.answer (s : State) (st : Status) (p : Payload) : State := { s with response := some ⟨st, p⟩ }

/-- `respond(OK, P)`: the operation has completed (R63). -/
def respondOk (p : Payload) (s : State) : Result := .next (s.answer .ok p)

/-- `raise c`: the response is the code of the condition with `P = 0`, and nothing else is written (R187). -/
def raise (c : Condition) (s : State) : Result := .next (s.answer (.raised c) 0)

/-- The check every operation but SEED makes first: without a GeneratorState, `NotSeeded` (R183, R186); otherwise
the operation goes on with the registers. -/
def whenSeeded (s : State) (op : Regs → Result) : Result :=
  match s.regs with
  | none => raise .notSeeded s
  | some r => op r

/-- The reset event: `seeded <- 0`, the registers hold no value, the port is idle, the strap stays (R210). -/
def State.applyReset (s : State) : State := { s.clearSeeded with response := none }

end Sys2Proof.Machine
end

