-- ==== Sys2Proof/Machine/Stepper.lean ====
section
/-! DEFINITION. The stepper (42_stepper): the slot update, the step, STEP. -/

namespace Sys2Proof.Machine

/-- `GEN(z, k, q, s)`, one expression over the old `z` (R121, R128). -/
def gen (p : SlotParams) (z : Word) : Word :=
  let b := shl64 z p.q ^^^ z
  let t1 := shr64 b (p.k - p.s)
  let t2 := shl64 (z &&& shl64 allOnes (64 - p.k)) p.s
  t1 ^^^ t2

/-- One turn of the loop of `step()`: the slot's register is updated and joined to the accumulator (R120, R126). -/
def stepSlot (acc : Word × Regs) (i : Fin 4) : Word × Regs :=
  let z := gen (slot i) (acc.2.get i)
  (acc.1 ^^^ z, acc.2.set i z)

/-- `step()`: the four slots in order, the accumulator starting at 0; the combined word and the new registers
(R120, R126, R127). -/
def advance (r : Regs) : Word × Regs := slotOrder.foldl stepSlot (0, r)

/-- STEP (R120). -/
def execStep (s : State) : Result :=
  whenSeeded s fun r =>
    let (c, r') := advance r
    respondOk (zext256 c) (s.writeRegs r')

end Sys2Proof.Machine
end

