-- ==== Sys2Proof/Machine/Extractor.lean ====
section
/-! DEFINITION. The extractor (43_extractor): FRAC. -/

namespace Sys2Proof.Machine

/-- `d1`: the low 52 bits of the combined word under the exponent of [1, 2) (R141). -/
def mantissaPattern (c : Word) : Word := (c &&& mant52) ||| one64

/-- The fraction of a combined word, `d1 - 1.0` (R142). It is never a NaN (R143), so `draw` is never taken. -/
def fractionOf (draw c : Word) : Word := settle draw (fsub (mantissaPattern c) one64)

/-- `fraction()`: exactly one step, then the extraction (R140, R145). -/
def fraction (draw : Word) (r : Regs) : Word × Regs :=
  let (c, r') := advance r
  (fractionOf draw c, r')

/-- FRAC (R140). -/
def execFrac (s : State) : Result :=
  whenSeeded s fun r =>
    let (f, r') := fraction s.nanDraw r
    respondOk (zext256 f) (s.writeRegs r')

end Sys2Proof.Machine
end

