-- ==== Sys2Proof/Machine/RangeMapper.lean ====
section
/-! DEFINITION. The range mapper (44_range_mapper): RAND0, RAND1, RAND2. -/

namespace Sys2Proof.Machine

/-- `fadd(ffloor(fmul(f, w)), base)`, each operator rounded on its own, a NaN carried through (R151, R152, R154). -/
def scaled (f w base : Word) : Option Word :=
  (fmul f w).bind fun p => (ffloor p).bind fun g => fadd g base

/-- RAND1's value from the fraction and the bound (R151). -/
def map1 (f m : Word) : Option Word := scaled f m one64

/-- The width of RAND2, `(n - m) + 1.0`, grouped from the left (R154). -/
def rangeWidth (m n : Word) : Option Word := (fsub n m).bind fun t => fadd t one64

/-- RAND2's value from the fraction and the bounds (R152). -/
def map2 (f m n : Word) : Option Word := (rangeWidth m n).bind fun w => scaled f w m

/-- The check of the hardened variant: `HARDENED_RANGE = 1` and `n < m` (R153). -/
def rangeRejected (s : State) (m n : Word) : Bool := s.hardenedRange && flt n m

/-- A mapped value as the response, a NaN with the pattern drawn for this operation (R92, R158). -/
def respondMapped (v : Option Word) (s : State) : Result := respondOk (zext256 (settle s.nanDraw v)) s.spendDraw

/-- RAND0: the fraction itself (R150). -/
def execRand0 (s : State) : Result :=
  whenSeeded s fun r =>
    let (f, r') := fraction s.nanDraw r
    respondOk (zext256 f) (s.writeRegs r')

/-- RAND1 (R151): any bound at all is taken (R157). -/
def execRand1 (m : Word) (s : State) : Result :=
  whenSeeded s fun r =>
    let (f, r') := fraction s.nanDraw r
    respondMapped (map1 f m) (s.writeRegs r')

/-- RAND2 (R152): `NotSeeded` first (R186), then the hardened check, before the step (R153). -/
def execRand2 (m n : Word) (s : State) : Result :=
  whenSeeded s fun r =>
    if rangeRejected s m n then raise .invalidRange s
    else
      let (f, r') := fraction s.nanDraw r
      respondMapped (map2 f m n) (s.writeRegs r')

end Sys2Proof.Machine
end

