-- ==== Sys2Proof/Machine/Readout.lean ====
section
/-! DEFINITION. The state read-out (45_state_readout): DUMP, and the text form of a register. -/

namespace Sys2Proof.Machine

/-- DUMP (R170): the four registers as they stand, dead bits included; no step is taken. -/
def execDump (s : State) : Result :=
  whenSeeded s fun r => respondOk (dumpPayload r) s

/-- Group `g` of the text form: the eight bits from bit `63 - 8g` down, as digits (R171). -/
def renderGroup (v : Word) (g : Nat) : List Char :=
  (List.range 8).map fun b => if v.getLsbD (63 - 8 * g - b) then '1' else '0'

/-- The characters of the text form: eight groups, the most significant first, one space between groups (R71,
R171). -/
def renderChars (v : Word) : List Char :=
  (List.range 8).flatMap fun g => (if g = 0 then [] else [' ']) ++ renderGroup v g

/-- `render` (R171): a pure function outside the datapath (R5, 90_conflicts C1). -/
def render (v : Word) : String := String.ofList (renderChars v)

/-- The four strings of GPRNG's `dump_state`, in slot order, from a DUMP payload (R73, R170, R171). -/
def dumpState (p : Payload) : List String :=
  slotOrder.map fun i => render (p.extractLsb' (64 * i.val) 64)

end Sys2Proof.Machine
end

