-- ==== Sys2Proof/Machine/Reserved.lean ====
section
/-! DEFINITION. The reserved opcode (R65, R184). -/

namespace Sys2Proof.Machine

/-- ILL: `IllegalOp`, seeded or not, whatever the operand words are (R65, R184, R186). -/
def execIll (s : State) : Result := raise .illegalOp s

end Sys2Proof.Machine
end

