-- ==== Sys2Proof/Machine/Seeder.lean ====
section
/-! DEFINITION. The seeder (41_seeder): SEED. -/

namespace Sys2Proof.Machine

/-- The recurrence `d <- fadd(fmul(d, PI64), E64)`, two roundings (R89, R104). From a finite operand it never
yields NaN (R99, R111). -/
def recurrence (d : Word) : Option Word := (fmul d pi64).bind fun p => fadd p e64

/-- `mask_i = 1 << shift_i` (R103). -/
def seedMask (i : Fin 4) : Word := shl64 1 (seedShift i)

/-- The guard: `u < mask_i` is replaced by `u + mask_i` (R106). -/
def guardWord (i : Fin 4) (u : Word) : Word :=
  if ult64 u (seedMask i) then add64 u (seedMask i) else u

/-- The four slots derived in order, each `d` from the `d` before it and not from the guarded word (R102, R104 to
R107). `draw` stands in for a NaN, which cannot arise (R111; assumption log 11). -/
def deriveRegs (draw a : Word) : Regs :=
  let d0 := settle draw (recurrence a)
  let d1 := settle draw (recurrence d0)
  let d2 := settle draw (recurrence d1)
  let d3 := settle draw (recurrence d2)
  ⟨guardWord 0 d0, guardWord 1 d1, guardWord 2 d2, guardWord 3 d3⟩

/-- So many whole steps, their combined words discarded (R108, R29). -/
def warmUp : Nat → Regs → Regs
  | 0, r => r
  | n + 1, r => warmUp n (advance r).2

/-- SEED (R100 to R109): the finite check on the operand alone, the derivation, the warm-up, the commit. -/
def execSeed (a : Word) (s : State) : Result :=
  if isFinite a then
    respondOk 0 (s.writeRegs (warmUp warmUpSteps (deriveRegs s.nanDraw a)))
  else raise .invalidSeed s

end Sys2Proof.Machine
end

