-- ==== Sys2Proof/Machine/Dispatch.lean ====
section
/-! DEFINITION. One meaning per instruction. Operand words an operation does not use are dropped here (R62). -/

namespace Sys2Proof.Machine

def exec (i : Instr) (s : State) : Host.Outcome State Fault Refusal :=
  match i with
  | .seed a _ => Sys2Proof.Machine.execSeed a s
  | .step _ _ => Sys2Proof.Machine.execStep s
  | .frac _ _ => Sys2Proof.Machine.execFrac s
  | .rand0 _ _ => Sys2Proof.Machine.execRand0 s
  | .rand1 a _ => Sys2Proof.Machine.execRand1 a s
  | .rand2 a b => Sys2Proof.Machine.execRand2 a b s
  | .dump _ _ => Sys2Proof.Machine.execDump s
  | .ill _ _ => Sys2Proof.Machine.execIll s

end Sys2Proof.Machine
end

