-- ==== Sys2Proof/WellFormed.lean ====
section
/-! DEFINITION. Checks on commands: the length of a record, and the form in which the assembler writes a command. -/

namespace Sys2Proof

/-- Every command has the one length of R60, 131 bits (R66): a number is a command record when it fits. -/
def isCommandRecord (w : Nat) : Bool := decide (w < 2 ^ 131)

/-- The form the assembler writes: "Operand words the mnemonic does not name are assembled as 0" (R72).
The block takes the other forms too and answers them alike (R62), so no meaning asks this. -/
def Instr.assembled : Instr → Bool
  | .seed _ b => b == 0
  | .step a b => a == 0 && b == 0
  | .frac a b => a == 0 && b == 0
  | .rand0 a b => a == 0 && b == 0
  | .rand1 _ b => b == 0
  | .rand2 _ _ => true
  | .dump a b => a == 0 && b == 0
  | .ill a b => a == 0 && b == 0

end Sys2Proof
end

