-- ==== Sys2Proof/Decode.lean ====
section
/-! DEFINITION. The decoder of command records, and the encoder (R60, R61). -/

namespace Sys2Proof

/-- The `op` field, bits 130:128 (R60). -/
def opField (w : CommandRecord) : BitVec 3 := w.extractLsb' 128 3

/-- The first operand word, bits 127:64 (R60). -/
def fieldA (w : CommandRecord) : Word := w.extractLsb' 64 64

/-- The second operand word, bits 63:0 (R60). -/
def fieldB (w : CommandRecord) : Word := w.extractLsb' 0 64

/-- The opcode table (R61): every record decodes, and the only reserved opcode decodes to ILL (R65). -/
def decode (w : CommandRecord) : Instr :=
  match (opField w).toNat with
  | 0 => .seed (fieldA w) (fieldB w)
  | 1 => .step (fieldA w) (fieldB w)
  | 2 => .frac (fieldA w) (fieldB w)
  | 3 => .rand0 (fieldA w) (fieldB w)
  | 4 => .rand1 (fieldA w) (fieldB w)
  | 5 => .rand2 (fieldA w) (fieldB w)
  | 6 => .dump (fieldA w) (fieldB w)
  | _ => .ill (fieldA w) (fieldB w)

/-- Why a number is not a command. -/
inductive DecodeError where
  /-- Longer than the 131 bits of R60: it cannot be presented on the command port (safe: the host never can). -/
  | notACommandRecord
deriving DecidableEq, Repr

/-- Decode a number as a record: the one thing that can be wrong with it is its length (R60, R66). -/
def decodeNumber (w : Nat) : Except DecodeError Instr :=
  if isCommandRecord w then .ok (decode (BitVec.ofNat 131 w)) else .error .notACommandRecord

/-- The instruction the decoder reads from the bits `w`, numbered as spec/opcode_table.json numbers them. A command
is one record and not a sequence of words or bytes (R42, R46), so the number is the record (assumption log 8). -/
def decodeTableWord (_nbits w : Nat) : Option Instr :=
  match decodeNumber w with
  | .ok i => some i
  | .error _ => none

/-- The opcode of an instruction (R61). -/
def opcode : Instr → BitVec 3
  | .seed _ _ => 0b000
  | .step _ _ => 0b001
  | .frac _ _ => 0b010
  | .rand0 _ _ => 0b011
  | .rand1 _ _ => 0b100
  | .rand2 _ _ => 0b101
  | .dump _ _ => 0b110
  | .ill _ _ => 0b111

/-- The operand word `A` of an instruction (R60). -/
def operandA : Instr → Word
  | .seed a _ | .step a _ | .frac a _ | .rand0 a _ | .rand1 a _ | .rand2 a _ | .dump a _ | .ill a _ => a

/-- The operand word `B` of an instruction (R60). -/
def operandB : Instr → Word
  | .seed _ b | .step _ b | .frac _ b | .rand0 _ b | .rand1 _ b | .rand2 _ b | .dump _ b | .ill _ b => b

/-- The record of an instruction: `op ‖ A ‖ B` (R60). -/
def encode (i : Instr) : CommandRecord := opcode i ++ operandA i ++ operandB i

end Sys2Proof
end

