-- ==== Sys2Proof/Machine/Port.lean ====
section
/-! DEFINITION. What the host does next: the block fetches nothing (R23, R53), it takes what its port is given. -/

namespace Sys2Proof.Machine

/-- The next thing for a step to do, and the state without it. -/
inductive Arrival where
  /-- The host has nothing more to do (R197). -/
  | idle
  /-- The reset input is asserted (R210). -/
  | reset (s : State)
  /-- A command is accepted (R48, R50). -/
  | command (i : Instr) (s : State)
deriving DecidableEq, Repr

/-- Take the host's next event, decoding a command (R60, R61). Events are taken in the host's order (R50). -/
def State.arrival (s : State) : Arrival :=
  match s.host with
  | [] => .idle
  | .reset :: rest => .reset { s with host := rest }
  | .command w :: rest => .command (decode w) { s with host := rest }

/-- A command put before everything the host has still to issue. -/
def State.present (s : State) (w : CommandRecord) : State := { s with host := .command w :: s.host }

end Sys2Proof.Machine
end

