-- ==== Sys2Proof/Machine/Step.lean ====
section
/-! DEFINITION. One step of the machine: one command performed whole, or one reset (R48, R50, R211). -/

namespace Sys2Proof.Machine

/-- One event of the host. With none, the block holds its registers and `seeded` (R197; assumption log 6), and the
response stays on the port (DESIGN CHOICE, assumption log 5). -/
def step (s : State) : Host.Outcome State Fault Refusal :=
  match s.arrival with
  | .idle => .next s
  | .reset s' => .next s'.applyReset
  | .command i s' => exec i s'

/-- The command whose bits are `w`, presented so that the next step performs it. -/
def State.withFetchWord (s : State) (_nbits w : Nat) : State := s.present (BitVec.ofNat 131 w)

end Sys2Proof.Machine
end

