-- ==== Sys2Proof/Machine/Assembly.lean ====
section
/-! DEFINITION. The assembly syntax of the spec's programs (R72) and GPRNG's own spellings (R73). No step reads it: it
says which events a written program stands for. -/

namespace Sys2Proof.Machine

/-- `<f64>` (R72). A decimal literal is `digits / 10 ^ places` with a sign. -/
inductive Literal where
  | pattern (w : Word)
  | decimal (neg : Bool) (digits places : Nat)
  | posInf
  | negInf
  | nan
deriving DecidableEq, Repr

/-- The operand word of a literal: a pattern as it is, a decimal to the nearest binary64 with ties to even (R72).
A decimal of value 0 is the zero of its sign (assumption log 10). -/
def Literal.word : Literal → Word
  | .pattern w => w
  | .decimal neg digits places => if digits = 0 then zero neg else rne neg digits (10 ^ places)
  | .posInf => 0x7FF0000000000000
  | .negInf => 0xFFF0000000000000
  | .nan => 0x7FF8000000000000

/-- A line of assembly (R72). -/
inductive AsmLine where
  | seed (d : Literal)
  | step
  | frac
  | rand0
  | rand1 (m : Literal)
  | rand2 (m n : Literal)
  | dump
  | ill
  | reset
deriving DecidableEq, Repr

/-- The event a line stands for; "Operand words the mnemonic does not name are assembled as 0" (R72). -/
def AsmLine.event : AsmLine → HostEvent
  | .seed d => .command (encode (.seed d.word 0))
  | .step => .command (encode (.step 0 0))
  | .frac => .command (encode (.frac 0 0))
  | .rand0 => .command (encode (.rand0 0 0))
  | .rand1 m => .command (encode (.rand1 m.word 0))
  | .rand2 m n => .command (encode (.rand2 m.word n.word))
  | .dump => .command (encode (.dump 0 0))
  | .ill => .command (encode (.ill 0 0))
  | .reset => .reset

/-- The tagged variant of §9 for the bounds of `random` (R73). -/
inductive Bounds where
  | noBounds
  | upperOnly (m : Literal)
  | range (m n : Literal)
deriving DecidableEq, Repr

/-- GPRNG's spellings (R73). -/
inductive PublicCall where
  | seed (d : Literal)
  | step
  | nextFraction
  | random (args : Bounds)
  | dumpState
deriving DecidableEq, Repr

/-- What each spelling expands to (R73); picking one of the three RAND operations is done here, not in the block. -/
def PublicCall.expand : PublicCall → AsmLine
  | .seed d => .seed d
  | .step => .step
  | .nextFraction => .frac
  | .random .noBounds => .rand0
  | .random (.upperOnly m) => .rand1 m
  | .random (.range m n) => .rand2 m n
  | .dumpState => .dump

/-- Why a line of text is not a line of assembly. -/
inductive AsmError where
  | notALiteral (token : List Char)
  | notALine (tokens : List (List Char))
deriving DecidableEq, Repr

/-- The value of a hexadecimal digit, in either case of letters. -/
def hexDigit (c : Char) : Option Nat :=
  if '0'.toNat ≤ c.toNat ∧ c.toNat ≤ '9'.toNat then some (c.toNat - '0'.toNat)
  else if 'A'.toNat ≤ c.toNat ∧ c.toNat ≤ 'F'.toNat then some (c.toNat - 'A'.toNat + 10)
  else if 'a'.toNat ≤ c.toNat ∧ c.toNat ≤ 'f'.toNat then some (c.toNat - 'a'.toNat + 10)
  else none

/-- The value of a decimal digit. -/
def decDigit (c : Char) : Option Nat := (hexDigit c).filter (· < 10)

/-- The number a string of digits writes in a base, the digits read by `digit`, from `acc` on. -/
def digitsFrom (base : Nat) (digit : Char → Option Nat) : Nat → List Char → Option Nat
  | acc, [] => some acc
  | acc, c :: cs => (digit c).bind fun d => digitsFrom base digit (acc * base + d) cs

/-- An unsigned decimal literal, with or without a point: its digits as one number, and how many follow the point. -/
def decimalParts (t : List Char) : Option (Nat × Nat) :=
  let whole := t.takeWhile (· != '.')
  match t.dropWhile (· != '.') with
  | [] => if whole = [] then none else (digitsFrom 10 decDigit 0 whole).map fun n => (n, 0)
  | _ :: places =>
    if whole = [] ∨ places = [] then none
    else (digitsFrom 10 decDigit 0 (whole ++ places)).map fun n => (n, places.length)

/-- Read an `<f64>` (R72). -/
def parseLiteral (t : List Char) : Except AsmError Literal :=
  let decimal (neg : Bool) (ds : List Char) : Except AsmError Literal :=
    match decimalParts ds with
    | some (n, places) => .ok (.decimal neg n places)
    | none => .error (.notALiteral t)
  match t with
  | ['+', 'i', 'n', 'f'] => .ok .posInf
  | ['-', 'i', 'n', 'f'] => .ok .negInf
  | ['n', 'a', 'n'] => .ok .nan
  | '0' :: 'x' :: ds =>
    match digitsFrom 16 hexDigit 0 ds with
    | some n => if ds.length = 16 then .ok (.pattern (BitVec.ofNat 64 n)) else .error (.notALiteral t)
    | none => .error (.notALiteral t)
  | '-' :: ds => decimal true ds
  | '+' :: ds => decimal false ds
  | ds => decimal false ds

/-- The tokens of a line: `cur` is the token being read, a comma is a token of its own. -/
def tokensFrom (cur : List Char) : List Char → List (List Char)
  | [] => if cur = [] then [] else [cur]
  | c :: cs =>
    let done := if cur = [] then [] else [cur]
    if c = ' ' ∨ c = '\t' ∨ c = '\r' then done ++ tokensFrom [] cs
    else if c = ',' then done ++ [','] :: tokensFrom [] cs
    else tokensFrom (cur ++ [c]) cs

/-- The tokens of a line, from its start to the `;` of a comment (R72). -/
def lineTokens (l : List Char) : List (List Char) := tokensFrom [] (l.takeWhile (· != ';'))

/-- Read one line (R72); a line with no token stands for nothing. -/
def parseLine (l : List Char) : Except AsmError (Option AsmLine) :=
  match lineTokens l with
  | [] => .ok none
  | [['S', 'T', 'E', 'P']] => .ok (some .step)
  | [['F', 'R', 'A', 'C']] => .ok (some .frac)
  | [['R', 'A', 'N', 'D', '0']] => .ok (some .rand0)
  | [['D', 'U', 'M', 'P']] => .ok (some .dump)
  | [['I', 'L', 'L']] => .ok (some .ill)
  | [['R', 'E', 'S', 'E', 'T']] => .ok (some .reset)
  | [['S', 'E', 'E', 'D'], d] => (parseLiteral d).map fun d => some (.seed d)
  | [['R', 'A', 'N', 'D', '1'], m] => (parseLiteral m).map fun m => some (.rand1 m)
  | [['R', 'A', 'N', 'D', '2'], m, [','], n] =>
    (parseLiteral m).bind fun m => (parseLiteral n).map fun n => some (.rand2 m n)
  | ts => .error (.notALine ts)

/-- The lines of a text. -/
def textLines : List Char → List (List Char)
  | [] => [[]]
  | c :: cs =>
    match textLines cs with
    | [] => [[c]]
    | l :: ls => if c = '\n' then [] :: l :: ls else (c :: l) :: ls

/-- The events a text of assembly stands for, in the order written (R50, R72). -/
def assembleText (text : List Char) : Except AsmError (List HostEvent) :=
  ((textLines text).mapM parseLine).map fun ls => (ls.filterMap id).map AsmLine.event

end Sys2Proof.Machine
end

