-- ==== Sys2Proof/Safety.lean ====
section
/-! DEFINITION. What a safe run is: every step answers a next state, and every state keeps the invariants of a seeded
state (R30, R32) and of the response port (R63, R187). -/

namespace Sys2Proof.Machine

/-- The live region of a word in a slot: its top `k` bits, as a number of `k` bits (R30, R31). -/
def liveRegion (i : Fin 4) (z : Word) : Nat := z.toNat / 2 ^ (64 - (slot i).k)

/-- "the register's value must have at least one nonzero bit among its top `k_i` bits", for every slot (R30). -/
def Regs.live (r : Regs) : Bool := slotOrder.all fun i => liveRegion i (r.get i) != 0

/-- The per-slot invariant of a state: it says something only of a seeded one (R30). -/
def State.live (s : State) : Bool :=
  match s.regs with
  | none => true
  | some r => r.live

/-- A response that reports a condition has `P = 0` (R63, R187). -/
def Response.faultsEmpty (r : Response) : Bool := r.status == .ok || r.payload == 0

/-- The response on the port, if any, is of the form R63 gives. -/
def State.portSound (s : State) : Bool :=
  match s.response with
  | none => true
  | some r => r.faultsEmpty

/-- The invariant of the block: live registers and a sound port. -/
def State.sound (s : State) : Bool := s.live && s.portSound

/-- The step answers a next state. -/
def answersNext (o : Result) : Bool :=
  match o with
  | .next _ => true
  | .fault _ => false
  | .refused _ => false

/-- The operations of the range mapper that take a bound, the only ones whose result can be a NaN (R158). -/
def takesBound : Instr → Bool
  | .rand1 _ _ | .rand2 _ _ => true
  | .seed _ _ | .step _ _ | .frac _ _ | .rand0 _ _ | .dump _ _ | .ill _ _ => false

/-- A value operation that the strap `hardened` lets draw: all of them, but a RAND2 that is rejected (R153, R215). -/
def drawsUnder (hardened : Bool) (i : Instr) : Bool :=
  match i with
  | .rand2 m n => !(hardened && flt n m)
  | .step _ _ | .frac _ _ | .rand0 _ _ | .rand1 _ _ => true
  | .seed _ _ | .dump _ _ | .ill _ _ => false

/-- `p` is finite with the exact value `k` (R81). -/
def HasIntValue (p : Word) (k : Int) : Prop :=
  isFinite p = true ∧ signed (signBit p) (magnitude p) = k * 2 ^ 1074

/-- `v` is a pattern a rule with result `o` may give: that result, or any NaN where the rule yields NaN (R92). -/
def Yields (o : Option Word) (v : Word) : Prop :=
  match o with
  | some w => v = w
  | none => isNaN v = true

/-- The fraction of `j` as a pattern, without floating-point arithmetic (R144). -/
def fractionPattern (j : Nat) : Word :=
  if j = 0 then 0
  else BitVec.ofNat 64 ((971 + Nat.log2 j) <<< 52 ||| (j - 2 ^ Nat.log2 j) <<< (52 - Nat.log2 j))

/-- The low 52 bits `j` of the word the next step of these registers gives (R143). -/
def drawnBits (r : Regs) : Nat := (advance r).1.toNat % 2 ^ 52

/-- One turn of the seeder's chain, `d' = fadd(fmul(d, PI64), E64)`, a pattern and not a NaN (R91, R104). -/
def ChainsTo (d d' : Word) : Prop :=
  ∃ p, fmul d 0x400921FB54442D18 = some p ∧ fadd p 0x4005BF0A8B145769 = some d'

/-- The guard of a slot with `n` dead bits: "If `u < mask_i`, replace `u` with `u + mask_i`" (R106). -/
def guarded (n : Nat) (u : Word) : Word := if u.toNat < 2 ^ n then u + BitVec.ofNat 64 (2 ^ n) else u

/-- Two register files that agree on every live region: they differ at most in dead bits (R31). -/
def SameLiveRegions (r r' : Regs) : Prop := ∀ i, liveRegion i (r.get i) = liveRegion i (r'.get i)

/-- Two responses after the event `last`: the same, or both a NaN result of an operation with a bound, whose pattern is
free (R9, R92, R158). -/
def SameAnswer (last : Option HostEvent) (x y : Option Response) : Prop :=
  x = y ∨ ∃ w u v, last = some (.command w) ∧ takesBound (decode w) = true ∧ isNaN u = true ∧ isNaN v = true ∧
    x = some ⟨.ok, zext256 u⟩ ∧ y = some ⟨.ok, zext256 v⟩

end Sys2Proof.Machine
end

