-- ==== Sys2Proof/Certificates/Slice0/Obligations.lean ====
section
/-! DEFINITION. The statements for the provers. In every equation between states the fields not named are unchanged:
that is the frame. `host` and `nanDraws` are the model's own fields (assumption logs 4 and 3). -/

open Sys2Proof Sys2Proof.Machine

/-! ### Encoding -/

/-- R60, R61: the record and the instruction carry the same information, in both directions. -/
def Obligations.DecodeAndEncodeAreInverse : Prop :=
  (∀ i : Instr, decode (encode i) = i) ∧ ∀ w : CommandRecord, encode (decode w) = w

/-- R60: `op` stands in bits 130:128, `A` in 127:64, `B` in 63:0. -/
def Obligations.RecordFieldsStandInTheirBits : Prop :=
  ∀ (i : Instr), (∀ j, j < 64 → (encode i).getLsbD j = (operandB i).getLsbD j) ∧
    (∀ j, j < 64 → (encode i).getLsbD (64 + j) = (operandA i).getLsbD j) ∧
    ∀ j, j < 3 → (encode i).getLsbD (128 + j) = (opcode i).getLsbD j

/-- R61, on records written out in the spec's programs P1 and P3. -/
def Obligations.RecordsOfTheProgramsDecode : Prop :=
  decode 0x041D9A90EFE8000000000000000000000 = .seed 0x41D9A90EFE800000 0 ∧
  decode 0x100000000000000000000000000000000 = .step 0 0 ∧
  decode 0x200000000000000000000000000000000 = .frac 0 0 ∧
  decode 0x300000000000000000000000000000000 = .rand0 0 0 ∧
  decode 0x440180000000000000000000000000000 = .rand1 0x4018000000000000 0 ∧
  decode 0x540140000000000004000000000000000 = .rand2 0x4014000000000000 0x4000000000000000 ∧
  decode 0x600000000000000000000000000000000 = .dump 0 0 ∧
  decode 0x700000000000000000000000000000000 = .ill 0 0

/-- R62: "An operand an operation does not use is ignored". That RAND1 also draws the same NaN pattern on both sides is
the model's choice (assumption log 3). -/
def Obligations.UnusedOperandsHaveNoEffect : Prop :=
  ∀ (a a' b b' : Word) (s : State),
    exec (.seed a b) s = exec (.seed a b') s ∧ exec (.step a b) s = exec (.step a' b') s ∧
    exec (.frac a b) s = exec (.frac a' b') s ∧ exec (.rand0 a b) s = exec (.rand0 a' b') s ∧
    exec (.rand1 a b) s = exec (.rand1 a b') s ∧ exec (.dump a b) s = exec (.dump a' b') s ∧
    exec (.ill a b) s = exec (.ill a' b') s

/-! ### The machine: step, reset, idling, responses -/

/-- A step performs the command presented, decoded, on the state without it; the same of a command put there by its
table number. The order of commands is the host's (assumption log 4). -/
def Obligations.StepPerformsTheDecodedCommand : Prop :=
  (∀ (s : State) (w : CommandRecord) (rest : List HostEvent), s.host = .command w :: rest →
    step s = exec (decode w) { s with host := rest }) ∧
  ∀ (s : State) (nbits w : Nat) (i : Instr), decodeTableWord nbits w = some i →
    step (s.withFetchWord nbits w) = exec i s

/-- R210: the reset event clears `seeded`, leaves the registers with no value and the port idle, changes nothing
else; two in a row equal one; after it every operation but SEED answers `NotSeeded`. -/
def Obligations.ResetLeavesTheBlockUnseeded : Prop :=
  ∀ (s : State) (rest : List HostEvent), s.host = .reset :: rest →
    ∃ t, step s = .next t ∧ t.seeded = false ∧ t = { s with regs := none, response := none, host := rest } ∧
      (∀ u, step { t with host := .reset :: rest } = .next u → u = t) ∧
      ∀ (i : Instr), (∀ a b, i ≠ .seed a b) → (∀ a b, i ≠ .ill a b) →
        exec i t = .next { t with response := some ⟨.raised .notSeeded, 0⟩ }

/-- R35: after reset `seeded = 0`, the registers hold no value and nothing is pending on the port. -/
def Obligations.ResetStateHoldsNoGenerator : Prop :=
  State.reset.seeded = false ∧ State.reset.regs = none ∧ State.reset.response = none

/-- R197: with nothing from the host the block holds its registers and `seeded`; that a step then answers next is read
from that rule (assumption log 6). That the response, too, stays on the port is the model's choice (assumption log 5). -/
def Obligations.IdleBlockHoldsItsState : Prop :=
  ∀ s : State, s.host = [] → step s = .next s

/-- R224, R63: every command answers a next state with its response. So every step answers a next state: a command by
R224, a reset by R210, and with no event left, the same state, as read from R197 (assumption log 6). That a step takes one
event of a list, where there is one, is the model's choice (assumption log 4). -/
def Obligations.EveryStepAnswersNext : Prop :=
  (∀ s : State, ∃ t, step s = .next t ∧ t.host = s.host.tail) ∧
  ∀ (i : Instr) (s : State), ∃ t rsp, exec i s = .next t ∧ t.response = some rsp ∧ t.host = s.host

/-- R25: the strap HARDENED_RANGE is written by no operation, and not by reset. -/
def Obligations.StrapNeverChanges : Prop :=
  ∀ s t : State, step s = .next t → t.hardenedRange = s.hardenedRange

/-- R186, R180: which status a command answers, in the order of priority. -/
def Obligations.StatusFollowsThePriority : Prop :=
  ∀ (i : Instr) (s : State), ∃ t rsp, exec i s = .next t ∧ t.response = some rsp ∧
    rsp.status =
      match i with
      | .ill _ _ => .raised .illegalOp
      | .seed a _ => if expField a = 2047 then .raised .invalidSeed else .ok
      | .rand2 m n =>
        if s.seeded = false then .raised .notSeeded
        else if s.hardenedRange = true ∧ flt n m = true then .raised .invalidRange
        else .ok
      | .step _ _ | .frac _ _ | .rand0 _ _ | .rand1 _ _ | .dump _ _ =>
        if s.seeded = false then .raised .notSeeded else .ok

/-- R187: a command that raises a condition writes nothing but its response, whose payload is 0. -/
def Obligations.FaultingCommandChangesNothing : Prop :=
  ∀ (i : Instr) (s t : State) (rsp : Response), exec i s = .next t → t.response = some rsp → rsp.status ≠ .ok →
    rsp.payload = 0 ∧ t = { s with response := some rsp }

/-- R63, R64: the response record is `status ‖ P` with the codes 0 to 4; every 64-bit result and SEED leave
`P[255:64]` at 0. -/
def Obligations.ResponseRecordHasItsForm : Prop :=
  (∀ (st : Status) (p : Payload), (Response.record ⟨st, p⟩).toNat =
    (match st with
      | .ok => 0
      | .raised .invalidSeed => 1
      | .raised .invalidRange => 2
      | .raised .notSeeded => 3
      | .raised .illegalOp => 4) * 2 ^ 256 + p.toNat) ∧
  ∀ (i : Instr) (s t : State) (rsp : Response), (∀ a b, i ≠ .dump a b) → exec i s = .next t →
    t.response = some rsp → rsp.payload.toNat < 2 ^ 64

/-- R22: `seeded` is set by a SEED that completes, and no command clears it. -/
def Obligations.CommandsOnlyEverSetSeeded : Prop :=
  ∀ (i : Instr) (s t : State), exec i s = .next t →
    (t.seeded = true ↔ s.seeded = true ∨ ∃ a b, i = .seed a b ∧ isFinite a = true)

/-! ### Invariants -/

/-- R30, R63: live registers and a sound port are kept by every step, from every state that has them: by a
command, by a reset (R210), and by a step with no event, as read from R197 (assumption log 6). -/
def Obligations.EveryStepKeepsTheBlockSound : Prop :=
  ∀ s t : State, s.sound = true → step s = .next t → t.sound = true

/-- The invariant holds right after reset. -/
def Obligations.ResetStateIsSound : Prop := State.reset.sound = true

/-- R30, R32: whatever the host issues after reset, with either strap, the registers are never degenerate: no live
region is all zero, and the four registers are never all zero. What the host issues is the list of assumption log 4, the
model's choice; when it is used up the registers are held, as read from R197 (assumption log 6). -/
def Obligations.DegenerateRegistersNeverArise : Prop :=
  ∀ (hardened : Bool) (events : List HostEvent) (k : Nat) (t : State) (r : Regs),
    Host.Core.run Sys2Proof.core k { State.reset with hardenedRange := hardened, host := events } = .next t →
    t.regs = some r →
    (∀ i, 2 ^ (64 - (slot i).k) ≤ (r.get i).toNat) ∧ r ≠ ⟨0, 0, 0, 0⟩

/-! ### Numerics -/

/-- R83: the rounding gives the infinity from half a unit above the largest finite magnitude on, and otherwise the
finite pattern of the sign asked for that is nearest to the exact value, the even one of two. -/
def Obligations.RoundingIsNearestTiesToEven : Prop :=
  ∀ (sign : Bool) (num den : Nat), 0 < num → 0 < den →
    let far (p : Word) : Nat := ((magnitude p * den : Int) - (num * 2 ^ 1074 : Int)).natAbs
    if (2 ^ 54 - 1) * 2 ^ 970 * den ≤ num then rne sign num den = infinity sign
    else isFinite (rne sign num den) = true ∧ signBit (rne sign num den) = sign ∧
      ∀ q : Word, isFinite q = true → far (rne sign num den) ≤ far q ∧
        (far (rne sign num den) = far q → magnitude q ≠ magnitude (rne sign num den) →
          fracField (rne sign num den) % 2 = 0)

/-- R87: `ffloor` gives the largest integral value not greater than the operand, keeps infinities and zeros, is `a`
itself from 2^52 on, `+0` in (0, 1) and `-1.0` in [-1, 0). -/
def Obligations.FloorIsTheLargestIntegerBelow : Prop :=
  (∀ a : Word, isNaN a = true → ffloor a = none) ∧
  (∀ s : Bool, ffloor (infinity s) = some (infinity s) ∧ ffloor (zero s) = some (zero s)) ∧
  ∀ a : Word, isFinite a = true →
    (∃ g k, ffloor a = some g ∧ HasIntValue g k ∧ k * 2 ^ 1074 ≤ signed (signBit a) (magnitude a) ∧
      signed (signBit a) (magnitude a) < (k + 1) * 2 ^ 1074) ∧
    (2 ^ 52 * 2 ^ 1074 ≤ magnitude a → ffloor a = some a) ∧
    (signBit a = false → 0 < magnitude a → magnitude a < 2 ^ 1074 → ffloor a = some 0) ∧
    (signBit a = true → 0 < magnitude a → magnitude a ≤ 2 ^ 1074 → ffloor a = some 0xBFF0000000000000)

/-- R88: `flt` is the order of the exact values, with the infinities at the ends, and false on a NaN; so `-0` and
`+0` are not below one another. -/
def Obligations.OrderedLessFollowsTheValues : Prop :=
  (∀ a b : Word, isNaN a = true ∨ isNaN b = true → flt a b = false) ∧
  (∀ a b : Word, isFinite a = true → isFinite b = true →
    (flt a b = true ↔ signed (signBit a) (magnitude a) < signed (signBit b) (magnitude b))) ∧
  (∀ b : Word, isNaN b = false → (flt (infinity true) b = true ↔ b ≠ infinity true)) ∧
  (∀ a : Word, isNaN a = false → (flt a (infinity false) = true ↔ a ≠ infinity false)) ∧
  (∀ b : Word, flt (infinity false) b = false) ∧ (∀ a : Word, flt a (infinity true) = false) ∧
  flt (zero true) (zero false) = false ∧ flt (zero false) (zero true) = false

/-- R86, and R154's remark that the operands of `fadd` and `fmul` may be taken in either order. -/
def Obligations.SubtractionIsAdditionOfTheNegative : Prop :=
  (∀ a b : Word, fsub a b = fadd a (b ^^^ 0x8000000000000000)) ∧
  (∀ v : Word, isFinite v = true → fsub v v = some 0) ∧
  fsub (infinity false) (infinity false) = none ∧
  ∀ a b : Word, fadd a b = fadd b a ∧ fmul a b = fmul b a

/-- R91: the seed constants are the binary64 values nearest to their decimal literals, and their exact values. -/
def Obligations.SeedConstantsAreTheNearestPatterns : Prop :=
  rne false 314159265358979323846 (10 ^ 20) = 0x400921FB54442D18 ∧
  rne false 27182818284590452354 (10 ^ 19) = 0x4005BF0A8B145769 ∧
  pi64 = 0x400921FB54442D18 ∧ e64 = 0x4005BF0A8B145769 ∧ one64 = 0x3FF0000000000000 ∧
  magnitude pi64 * 2 ^ 48 = 884279719003555 * 2 ^ 1074 ∧
  magnitude e64 * 2 ^ 51 = 6121026514868073 * 2 ^ 1074 ∧ magnitude one64 = 2 ^ 1074

/-- R92, D15: the patterns a draw can take are the NaN patterns, all of them. Nothing is said of which is drawn
(assumption log 3). -/
def Obligations.DrawnPatternsAreExactlyTheNaNs : Prop :=
  ∀ p : Word, isNaN p = true ↔ ∃ sg f, p = nanPattern sg f

/-- R99: the recurrence gives finite values and infinities only, stays at an infinity, gives `+0` exactly when the
product is the pattern of -e, and never `-0`. -/
def Obligations.RecurrenceNeverYieldsNaN : Prop :=
  (∀ d : Word, isNaN d = false → ∃ d', recurrence d = some d' ∧ isNaN d' = false) ∧
  (∀ s : Bool, recurrence (infinity s) = some (infinity s)) ∧
  ∀ d : Word, isFinite d = true →
    (recurrence d = some 0 ↔ fmul d pi64 = some 0xC005BF0A8B145769) ∧ recurrence d ≠ some 0x8000000000000000

/-! ### SEED -/

/-- R100 to R109: four slots in order from one chain, each word guarded, ten whole steps with their words discarded,
`seeded` set, `P = 0`. -/
def Obligations.SeedDerivesGuardsAndWarmsUp : Prop :=
  ∀ (a b : Word) (s : State), isFinite a = true →
    ∃ d0 d1 d2 d3, ChainsTo a d0 ∧ ChainsTo d0 d1 ∧ ChainsTo d1 d2 ∧ ChainsTo d2 d3 ∧
      exec (.seed a b) s = .next { s with
        regs := some ((fun r => (advance r).2)^[10] ⟨guarded 1 d0, guarded 6 d1, guarded 9 d2, guarded 17 d3⟩)
        response := some ⟨.ok, 0⟩ }

/-- R101: a non-finite seed raises `InvalidSeed` and does nothing else; the check is on the operand alone, so every
finite seed is taken, whatever values the recurrence reaches. -/
def Obligations.SeedRejectsNonFiniteOperands : Prop :=
  ∀ (a b : Word) (s : State),
    (expField a = 2047 → exec (.seed a b) s = .next { s with response := some ⟨.raised .invalidSeed, 0⟩ }) ∧
    (expField a ≠ 2047 → ∃ t, exec (.seed a b) s = .next t ∧ t.seeded = true ∧ t.response = some ⟨.ok, 0⟩)

/-- R110: SEED is taken whatever the block held before, and the registers it leaves depend on its operand alone. -/
def Obligations.SeedDependsOnItsOperandOnly : Prop :=
  ∀ (a b b' : Word) (s s' : State), isFinite a = true →
    ∃ t t', exec (.seed a b) s = .next t ∧ exec (.seed a b') s' = .next t' ∧ t.regs = t'.regs ∧
      t.response = some ⟨.ok, 0⟩ ∧ t'.response = some ⟨.ok, 0⟩

/-- R103, R106: the guard of each slot in plain arithmetic; it never wraps, and after it the live region is not all
zero. -/
def Obligations.GuardLeavesALiveRegion : Prop :=
  ∀ (i : Fin 4) (u : Word),
    (guardWord i u).toNat = (if u.toNat < 2 ^ (64 - (slot i).k) then u.toNat + 2 ^ (64 - (slot i).k) else u.toNat) ∧
    2 ^ (64 - (slot i).k) ≤ (guardWord i u).toNat ∧ liveRegion i (guardWord i u) ≠ 0

/-- R112: what the recurrence gives is `+0` or at least 2^-51 in magnitude, so the guard fires only on `d = +0`, giving
`u = mask_i`; the seed 0xBFEBB02D4ECA8F95 reaches it at slot 0, and the chain goes on from `+0` to e. -/
def Obligations.GuardFiresOnlyOnPlusZero : Prop :=
  (∀ d d' : Word, recurrence d = some d' → isFinite d' = true → d' ≠ 0 → 2 ^ 1023 ≤ magnitude d') ∧
  (∀ (d d' : Word) (i : Fin 4), recurrence d = some d' → d'.toNat < 2 ^ (64 - (slot i).k) →
    d' = 0 ∧ (guardWord i d').toNat = 2 ^ (64 - (slot i).k)) ∧
  recurrence 0xBFEBB02D4ECA8F95 = some 0 ∧ guardWord 0 0 = 2 ∧ recurrence 0 = some e64

/-- R111, R218: seeds whose first product overflows give one state for each sign, and seeds lost against e another. -/
def Obligations.ExtremeSeedsCoincide : Prop :=
  ∀ (a b : Word) (s t : State), isFinite a = true → exec (.seed a b) s = .next t →
    (fmul a pi64 = some (infinity false) → t.regs = some
      ⟨0x002FFA0000300600, 0xF018030000002FFA, 0x00007FF0007F0FE0, 0xF801F03E0003FF83⟩) ∧
    (fmul a pi64 = some (infinity true) → t.regs = some
      ⟨0x005FFA0000600600, 0xF030030000005FFA, 0x0000FFF000FE0FE0, 0xF803E03E0007FF87⟩) ∧
    (recurrence a = some e64 → t.regs = some
      ⟨0xA0D277570A345B8C, 0x764A296C5D4AA64F, 0x51220704070ADEAA, 0x2A2717B5A7B7B927⟩)

/-- The golden vector of GPRNG §8 (R109, R113): the registers SEED leaves for 1722039290. -/
def Obligations.GoldenSeedLeavesTheGoldenVector : Prop :=
  ∀ (b : Word) (s : State), exec (.seed 0x41D9A90EFE800000 b) s = .next { s with
    regs := some ⟨0x9C273D7EC3EE4C37, 0xE8D843E1505FBE3D, 0xB0A462974D1A8C4F, 0xF86E3D365E5EBD4B⟩
    response := some ⟨.ok, 0⟩ }

/-! ### The step and STEP -/

/-- R121: the slot update is one expression over the old word, and bit by bit what the rule lists; its two terms
occupy disjoint bits. -/
def Obligations.SlotUpdateBitByBit : Prop :=
  ∀ (i : Fin 4) (z : Word),
    let t1 : Word := ((z <<< (slot i).q) ^^^ z) >>> ((slot i).k - (slot i).s)
    let t2 : Word := (z &&& ((0xFFFFFFFFFFFFFFFF : Word) <<< (64 - (slot i).k))) <<< (slot i).s
    gen (slot i) z = t1 ^^^ t2 ∧ t1 &&& t2 = 0 ∧
    ∀ t, t < 64 → (gen (slot i) z).getLsbD t =
      if t ≤ 63 - (slot i).k + (slot i).s then
        (z.getLsbD (t + (slot i).k - (slot i).s) ^^ z.getLsbD (t + (slot i).k - (slot i).s - (slot i).q))
      else z.getLsbD (t - (slot i).s)

/-- R120, R122 to R126: STEP updates each register by its slot's formula and answers the xor of the four new ones. -/
def Obligations.StepUpdatesTheFourSlots : Prop :=
  ∀ (a b : Word) (s : State) (r : Regs), s.regs = some r →
    let z0 : Word := (((r.r0 <<< 31) ^^^ r.r0) >>> 45) ^^^ ((r.r0 &&& 0xFFFFFFFFFFFFFFFE) <<< 18)
    let z1 : Word := (((r.r1 <<< 19) ^^^ r.r1) >>> 30) ^^^ ((r.r1 &&& 0xFFFFFFFFFFFFFFC0) <<< 28)
    let z2 : Word := (((r.r2 <<< 24) ^^^ r.r2) >>> 48) ^^^ ((r.r2 &&& 0xFFFFFFFFFFFFFE00) <<< 7)
    let z3 : Word := (((r.r3 <<< 21) ^^^ r.r3) >>> 39) ^^^ ((r.r3 &&& 0xFFFFFFFFFFFE0000) <<< 8)
    (advance r).2 = ⟨z0, z1, z2, z3⟩ ∧
    exec (.step a b) s = .next { s with
      regs := some ⟨z0, z1, z2, z3⟩
      response := some ⟨.ok, (z0 ^^^ z1 ^^^ z2 ^^^ z3).setWidth 256⟩ }

/-- R130: the slot update is linear over GF(2) and does not depend on the dead bits. -/
def Obligations.SlotUpdateIsLinearAndDropsDeadBits : Prop :=
  ∀ (i : Fin 4) (x y : Word),
    gen (slot i) (x ^^^ y) = gen (slot i) x ^^^ gen (slot i) y ∧
    (x.toNat < 2 ^ (64 - (slot i).k) → gen (slot i) x = 0) ∧
    (liveRegion i x = liveRegion i y → gen (slot i) x = gen (slot i) y)

/-- R131: an empty live region gives 0, and on the live regions, words of `k` bits, the update is a bijection. -/
def Obligations.SlotUpdateIsABijectionOfLiveRegions : Prop :=
  ∀ i : Fin 4, (∀ z : Word, liveRegion i z = 0 → gen (slot i) z = 0) ∧
    (∀ y z : Word, liveRegion i (gen (slot i) y) = liveRegion i (gen (slot i) z) → liveRegion i y = liveRegion i z) ∧
    ∀ n, n < 2 ^ (slot i).k → ∃ z : Word, liveRegion i (gen (slot i) z) = n

/-- R31: registers that differ only in dead bits give the same outcome, dead bits included, of every operation that
takes a step; and an operation that takes none, SEED, a rejected RAND2 or ILL, answers alike and leaves at most dead bits
different. Only DUMP shows them. That a NaN result has the same pattern on both sides is the model's choice (assumption
log 3). -/
def Obligations.DeadBitsInfluenceNothing : Prop :=
  ∀ (i : Instr) (s : State) (r r' : Regs), SameLiveRegions r r' →
    (drawsUnder s.hardenedRange i = true →
      exec i { s with regs := some r } = exec i { s with regs := some r' }) ∧
    ((∀ a b, i ≠ .dump a b) →
      ∃ (t : State) (p p' : Regs), exec i { s with regs := some r } = .next { t with regs := some p } ∧
        exec i { s with regs := some r' } = .next { t with regs := some p' } ∧ SameLiveRegions p p')

/-- R159, R215: every value operation that draws leaves the registers of one step, whatever its bounds. -/
def Obligations.ValueOperationsSpendOneStep : Prop :=
  ∀ (i : Instr) (s : State) (r : Regs), s.regs = some r → drawsUnder s.hardenedRange i = true →
    ∃ t, exec i s = .next t ∧ t.regs = some (advance r).2

/-! ### The extractor: FRAC and RAND0 -/

/-- R140, R150: FRAC and RAND0 take exactly one step and answer the fraction of its low 52 bits, as the pattern formula
of R144 gives it; unseeded, they answer `NotSeeded`. -/
def Obligations.FracAndRand0ReturnTheFraction : Prop :=
  ∀ (a b : Word) (s : State),
    (s.regs = none → exec (.frac a b) s = .next { s with response := some ⟨.raised .notSeeded, 0⟩ } ∧
      exec (.rand0 a b) s = .next { s with response := some ⟨.raised .notSeeded, 0⟩ }) ∧
    ∀ r : Regs, s.regs = some r →
      let t : State := { s with
        regs := some (advance r).2
        response := some ⟨.ok, zext256 (fractionPattern (drawnBits r))⟩ }
      exec (.frac a b) s = .next t ∧ exec (.rand0 a b) s = .next t

/-- R141 to R144: the fraction of a word is `j / 2^52` exactly, `j` its low 52 bits: in [0, 1), never NaN, never
infinite, never negative, never `-0`; and its pattern is that of the formula. -/
def Obligations.FractionIsExactAndBelowOne : Prop :=
  ∀ c draw : Word, isFinite (fractionOf draw c) = true ∧ signBit (fractionOf draw c) = false ∧
    magnitude (fractionOf draw c) = (c.toNat % 2 ^ 52) * 2 ^ 1022 ∧ magnitude (fractionOf draw c) < 2 ^ 1074 ∧
    fractionOf draw c = fractionPattern (c.toNat % 2 ^ 52)

/-- R150: RAND0 is FRAC under a second opcode, for every state, the unseeded ones too. -/
def Obligations.Rand0IsFracForEveryState : Prop :=
  ∀ (a b a' b' : Word) (s : State), exec (.rand0 a b) s = exec (.frac a' b') s

/-! ### The range mapper: RAND1 and RAND2 -/

/-- R151: RAND1 takes one step and answers `fadd(ffloor(fmul(f, m)), 1.0)` for any bound at all; where that is a NaN,
some NaN pattern; unseeded, it answers `NotSeeded`. `nanDraws` is the model's counter (assumption log 3). -/
def Obligations.Rand1MapsTheFraction : Prop :=
  ∀ (m b : Word) (s : State),
    (s.regs = none → exec (.rand1 m b) s = .next { s with response := some ⟨.raised .notSeeded, 0⟩ }) ∧
    ∀ r : Regs, s.regs = some r →
      ∃ v, Yields ((fmul (fractionPattern (drawnBits r)) m).bind fun p => (ffloor p).bind fun g =>
          fadd g 0x3FF0000000000000) v ∧
        exec (.rand1 m b) s = .next { s with
          regs := some (advance r).2
          response := some ⟨.ok, zext256 v⟩
          nanDraws := s.nanDraws + 1 }

/-- R152, R154: RAND2, when the check of the hardened variant does not reject it, takes one step and answers
`fadd(ffloor(fmul(f, fadd(fsub(n, m), 1.0))), m)`; where that is a NaN, some NaN pattern. Unseeded it answers
`NotSeeded`, first of all; rejected, `InvalidRange`. `nanDraws` is the model's counter (assumption log 3). -/
def Obligations.Rand2MapsTheFraction : Prop :=
  ∀ (m n : Word) (s : State),
    (s.regs = none → exec (.rand2 m n) s = .next { s with response := some ⟨.raised .notSeeded, 0⟩ }) ∧
    ∀ r : Regs, s.regs = some r →
      (s.hardenedRange = true ∧ flt n m = true →
        exec (.rand2 m n) s = .next { s with response := some ⟨.raised .invalidRange, 0⟩ }) ∧
      (s.hardenedRange = false ∨ flt n m = false →
        ∃ v, Yields ((fsub n m).bind fun t => (fadd t 0x3FF0000000000000).bind fun w =>
            (fmul (fractionPattern (drawnBits r)) w).bind fun p => (ffloor p).bind fun g => fadd g m) v ∧
          exec (.rand2 m n) s = .next { s with
            regs := some (advance r).2
            response := some ⟨.ok, zext256 v⟩
            nanDraws := s.nanDraws + 1 })

/-- R182, R153: `InvalidRange` is what RAND2 answers exactly when the block is seeded, HARDENED_RANGE = 1 and n < m;
nothing else ever answers it, the registers do not advance, and a NaN bound never raises it. -/
def Obligations.InvalidRangeExactlyWhenHardenedAndReversed : Prop :=
  (∀ (i : Instr) (s t : State) (p : Payload), exec i s = .next t →
    (t.response = some ⟨.raised .invalidRange, p⟩ ↔
      p = 0 ∧ s.seeded = true ∧ s.hardenedRange = true ∧ ∃ m n, i = .rand2 m n ∧ flt n m = true)) ∧
  (∀ (i : Instr) (s t : State), exec i s = .next t → t.response = some ⟨.raised .invalidRange, 0⟩ →
    t.regs = s.regs) ∧
  ∀ (m n : Word) (s : State) (r : Regs), s.regs = some r → isNaN m = true ∨ isNaN n = true →
    ∃ t v, exec (.rand2 m n) s = .next t ∧ isNaN v = true ∧ t.response = some ⟨.ok, zext256 v⟩

/-- R155: for an integer bound 1 <= M <= 2^52, RAND1 answers an integer in [1, M]: 1 at the least fraction, M at the
greatest. -/
def Obligations.Rand1AnswersAnIntegerInRange : Prop :=
  ∀ (m b : Word) (s : State) (r : Regs) (M : Nat), s.regs = some r → HasIntValue m M → 1 ≤ M → M ≤ 2 ^ 52 →
    ∃ t v k, exec (.rand1 m b) s = .next t ∧ t.response = some ⟨.ok, zext256 v⟩ ∧ HasIntValue v k ∧
      1 ≤ k ∧ k ≤ M ∧ (drawnBits r = 0 → k = 1) ∧ (drawnBits r = 2 ^ 52 - 1 → k = M)

/-- R155: for integer bounds M <= N of moderate size, RAND2 answers an integer in [M, N], with either strap. -/
def Obligations.Rand2AnswersAnIntegerInRange : Prop :=
  ∀ (m n : Word) (s : State) (r : Regs) (M N : Int), s.regs = some r → HasIntValue m M → HasIntValue n N →
    M ≤ N → |M| ≤ 2 ^ 52 → |N| ≤ 2 ^ 52 → N - M + 1 ≤ 2 ^ 52 →
    ∃ t v k, exec (.rand2 m n) s = .next t ∧ t.response = some ⟨.ok, zext256 v⟩ ∧ HasIntValue v k ∧ M ≤ k ∧ k ≤ N

/-- R160: reversed integer bounds without the check: an integer in [N + 1, M]. -/
def Obligations.UnhardenedRand2WithReversedBounds : Prop :=
  ∀ (m n : Word) (s : State) (r : Regs) (M N : Int), s.regs = some r → s.hardenedRange = false →
    HasIntValue m M → HasIntValue n N → N < M - 1 → |M| ≤ 2 ^ 52 → |N| ≤ 2 ^ 52 → |N - M + 1| ≤ 2 ^ 52 →
    ∃ t v k, exec (.rand2 m n) s = .next t ∧ t.response = some ⟨.ok, zext256 v⟩ ∧ HasIntValue v k ∧
      N + 1 ≤ k ∧ k ≤ M

/-- R158: the table of NaN and infinite results of RAND1, and no other case: a finite bound gives a finite result. -/
def Obligations.Rand1NonFiniteResults : Prop :=
  ∀ (j : Nat) (m : Word), j < 2 ^ 52 →
    (isNaN m = true → map1 (fractionPattern j) m = none) ∧
    (∀ s, m = infinity s → map1 (fractionPattern j) m = if j = 0 then none else some (infinity s)) ∧
    (isFinite m = true → ∃ v, map1 (fractionPattern j) m = some v ∧ isFinite v = true)

/-- R158: the rows of the table of NaN and infinite results of RAND2. -/
def Obligations.Rand2NonFiniteResults : Prop :=
  ∀ (j : Nat) (m n : Word), j < 2 ^ 52 →
    (isNaN m = true ∨ isNaN n = true → map2 (fractionPattern j) m n = none) ∧
    (∀ s, m = infinity s → map2 (fractionPattern j) m n = none) ∧
    (∀ s, isFinite m = true → n = infinity s →
      map2 (fractionPattern j) m n = if j = 0 then none else some (infinity s)) ∧
    (∀ s, isFinite m = true → isFinite n = true → fsub n m = some (infinity s) →
      map2 (fractionPattern j) m n = if j = 0 then none else some (infinity s))

/-- R157: bounds that leave one value: RAND1 with 0 <= m <= 1 or m = -0 always gives 1.0, RAND2 with equal finite
non-zero bounds always gives that bound. -/
def Obligations.SingleValuedBounds : Prop :=
  ∀ (j : Nat) (m : Word), j < 2 ^ 52 → isFinite m = true →
    ((signBit m = false ∧ magnitude m ≤ 2 ^ 1074) ∨ magnitude m = 0 →
      map1 (fractionPattern j) m = some 0x3FF0000000000000) ∧
    (magnitude m ≠ 0 → map2 (fractionPattern j) m m = some m)

/-! ### Unseeded, DUMP, the reserved opcode -/

/-- R183, R186: before a SEED has completed, each of the six other operations answers `NotSeeded` and does nothing
else, for RAND2 with any bounds and either strap; on a seeded block nothing answers it. -/
def Obligations.UnseededOperationsAnswerNotSeeded : Prop :=
  (∀ (a b : Word) (s : State), s.regs = none →
    let t : State := { s with response := some ⟨.raised .notSeeded, 0⟩ }
    exec (.step a b) s = .next t ∧ exec (.frac a b) s = .next t ∧ exec (.rand0 a b) s = .next t ∧
    exec (.rand1 a b) s = .next t ∧ exec (.rand2 a b) s = .next t ∧ exec (.dump a b) s = .next t) ∧
  ∀ (i : Instr) (s t : State) (p : Payload), s.seeded = true → exec i s = .next t →
    t.response ≠ some ⟨.raised .notSeeded, p⟩

/-- R170: DUMP answers the four registers, `P[64i+63 : 64i] = r[i]`, and changes nothing but the response; unseeded, it
answers `NotSeeded`. -/
def Obligations.DumpReadsTheRegisters : Prop :=
  ∀ (a b : Word) (s : State),
    (s.regs = none → exec (.dump a b) s = .next { s with response := some ⟨.raised .notSeeded, 0⟩ }) ∧
    ∀ r : Regs, s.regs = some r →
      ∃ p : Payload, exec (.dump a b) s = .next { s with response := some ⟨.ok, p⟩ } ∧
        ∀ (i : Fin 4) (j : Nat), j < 64 → p.getLsbD (64 * i.val + j) = (r.get i).getLsbD j

/-- R65, R184: the reserved opcode raises `IllegalOp`, seeded or not. -/
def Obligations.ReservedOpcodeIsIllegal : Prop :=
  ∀ (a b : Word) (s : State), exec (.ill a b) s = .next { s with response := some ⟨.raised .illegalOp, 0⟩ }

/-- R171: the text form: 71 characters, character `9g + b` is bit `63 - 8g - b`, and a space stands before each group
but the first. -/
def Obligations.RenderingIsMostSignificantFirst : Prop :=
  ∀ v : Word, (renderChars v).length = 71 ∧ render v = String.ofList (renderChars v) ∧
    (∀ g b, g < 8 → b < 8 →
      (renderChars v)[9 * g + b]? = some (if v.getLsbD (63 - 8 * g - b) then '1' else '0')) ∧
    (∀ g, 0 < g → g < 8 → (renderChars v)[9 * g - 1]? = some ' ') ∧
    ∀ r : Regs, dumpState (dumpPayload r) = [render r.r0, render r.r1, render r.r2, render r.r3]

/-! ### Determinism and noninterference over runs -/

/-- R3, R159: two runs of value operations from the same registers leave the same registers, whatever operations and
bounds they are made of. The operations come from the list of assumption log 4, the model's choice. -/
def Obligations.BoundsNeverReachTheRegisters : Prop :=
  ∀ (p q : List Instr) (s s' t t' : State), p.length = q.length → s.regs = s'.regs →
    (∀ i ∈ p, drawsUnder s.hardenedRange i = true) → (∀ i ∈ q, drawsUnder s'.hardenedRange i = true) →
    s.host = p.map (fun i => .command (encode i)) → s'.host = q.map (fun i => .command (encode i)) →
    Host.Core.run Sys2Proof.core p.length s = .next t → Host.Core.run Sys2Proof.core q.length s' = .next t' →
    t.regs = t'.regs

/-- R9: two instances with the same strap, seeded with the same value, have after every number of steps over the same
events the same registers and the same response, the pattern of a NaN result of RAND1 or RAND2 aside. That the events
stand in a list, `host`, of which each step takes the first, is the model's choice (assumption log 4); so is that a response is still on the port
after idle steps (assumption log 5). That idle steps hold the registers is read from R197 (assumption log 6). -/
def Obligations.EqualSeedsGiveEqualStreams : Prop :=
  ∀ (a b : Word) (events : List HostEvent) (s s' t t' : State) (k : Nat), isFinite a = true →
    s.hardenedRange = s'.hardenedRange → s.host = .command (encode (.seed a b)) :: events → s'.host = s.host →
    Host.Core.run Sys2Proof.core (k + 1) s = .next t → Host.Core.run Sys2Proof.core (k + 1) s' = .next t' →
    t.regs = t'.regs ∧ t.host = t'.host ∧ SameAnswer (s.host.take (k + 1)).getLast? t.response t'.response

/-! ### The assembly syntax -/

/-- R72, R73: what the lines of assembly and GPRNG's spellings stand for; operand words the mnemonic does not name
are 0. -/
def Obligations.AssemblyStandsForItsCommands : Prop :=
  (∀ d m n : Literal,
    (AsmLine.seed d).event = .command (encode (.seed d.word 0)) ∧ AsmLine.step.event = .command (encode (.step 0 0)) ∧
    AsmLine.frac.event = .command (encode (.frac 0 0)) ∧ AsmLine.rand0.event = .command (encode (.rand0 0 0)) ∧
    (AsmLine.rand1 m).event = .command (encode (.rand1 m.word 0)) ∧
    (AsmLine.rand2 m n).event = .command (encode (.rand2 m.word n.word)) ∧
    AsmLine.dump.event = .command (encode (.dump 0 0)) ∧ AsmLine.ill.event = .command (encode (.ill 0 0)) ∧
    AsmLine.reset.event = .reset ∧ (PublicCall.seed d).expand = .seed d ∧ PublicCall.step.expand = .step ∧
    PublicCall.nextFraction.expand = .frac ∧ (PublicCall.random .noBounds).expand = .rand0 ∧
    (PublicCall.random (.upperOnly m)).expand = .rand1 m ∧ (PublicCall.random (.range m n)).expand = .rand2 m n ∧
    PublicCall.dumpState.expand = .dump) ∧
  ∀ w : Word, (Literal.pattern w).word = w ∧ Literal.posInf.word = 0x7FF0000000000000 ∧
    Literal.negInf.word = 0xFFF0000000000000 ∧ Literal.nan.word = 0x7FF8000000000000 ∧
    (Literal.decimal false 1722039290 0).word = 0x41D9A90EFE800000 ∧
    (Literal.decimal true 5 1).word = 0xBFE0000000000000
end

