-- ==== Sys2Proof/Laws/Numerics.lean ====
section
/-! SUPPORT. The fields of patterns (R80, R81), the drawn NaN (R92), and the cases of the rounding (R83). -/

namespace Sys2Proof.Machine

/-- Concatenation as arithmetic. -/
theorem toNat_append_arith {m n : Nat} (x : BitVec m) (y : BitVec n) :
    (x ++ y).toNat = x.toNat * 2 ^ n + y.toNat := by
  rw [BitVec.toNat_append, Nat.shiftLeft_eq]
  have h : x.toNat * 2 ^ n = 2 ^ n * x.toNat := Nat.mul_comm _ _
  rw [h, ← Nat.two_pow_add_eq_or_of_lt y.isLt]

theorem signBit_eq (p : Word) : signBit p = decide (2 ^ 63 ≤ p.toNat) := by
  rw [signBit, BitVec.getLsbD, Nat.testBit_eq_decide_div_mod_eq]
  have := p.isLt
  simp only [decide_eq_decide]
  omega

theorem expField_eq (p : Word) : expField p = p.toNat / 2 ^ 52 % 2048 := by
  simp [expField, BitVec.extractLsb'_toNat, Nat.shiftRight_eq_div_pow]

theorem fracField_eq (p : Word) : fracField p = p.toNat % 2 ^ 52 := by
  simp [fracField, BitVec.extractLsb'_toNat]

theorem expField_lt (p : Word) : expField p < 2048 := (p.extractLsb' 52 11).isLt

theorem fracField_lt (p : Word) : fracField p < 2 ^ 52 := (p.extractLsb' 0 52).isLt

theorem pattern_toNat (s : Bool) (e f : Nat) :
    (pattern s e f).toNat = s.toNat * 2 ^ 63 + e % 2048 * 2 ^ 52 + f % 2 ^ 52 := by
  have h1 := toNat_append_arith (BitVec.ofBool s ++ BitVec.ofNat 11 e) (BitVec.ofNat 52 f)
  have h2 := toNat_append_arith (BitVec.ofBool s) (BitVec.ofNat 11 e)
  rw [h2] at h1
  refine h1.trans ?_
  simp only [BitVec.toNat_ofBool, BitVec.toNat_ofNat]
  omega

@[simp] theorem signBit_pattern (s : Bool) (e f : Nat) : signBit (pattern s e f) = s := by
  rw [signBit_eq, pattern_toNat]
  cases s <;> simp <;> omega

@[simp] theorem expField_pattern (s : Bool) (e f : Nat) : expField (pattern s e f) = e % 2048 := by
  rw [expField_eq, pattern_toNat]
  cases s <;> simp <;> omega

@[simp] theorem fracField_pattern (s : Bool) (e f : Nat) : fracField (pattern s e f) = f % 2 ^ 52 := by
  rw [fracField_eq, pattern_toNat]
  omega

/-- A pattern is its three fields. -/
theorem pattern_of_fields (p : Word) : pattern (signBit p) (expField p) (fracField p) = p := by
  apply BitVec.eq_of_toNat_eq
  rw [pattern_toNat, signBit_eq, expField_eq, fracField_eq]
  have := p.isLt
  by_cases h : 2 ^ 63 ≤ p.toNat <;> simp only [h, decide_true, decide_false, Bool.toNat_true, Bool.toNat_false] <;>
    omega

/-- Two patterns with the same fields are one. -/
theorem eq_of_fields {p q : Word} (hs : signBit p = signBit q) (he : expField p = expField q)
    (hf : fracField p = fracField q) : p = q := by
  rw [← pattern_of_fields p, ← pattern_of_fields q, hs, he, hf]

theorem classify_of_isNaN {p : Word} (h : isNaN p = true) : classify p = .nan := by
  have : expField p = 2047 := by simp [isNaN] at h; exact h.1
  simp [classify, isFinite, this, h]

theorem classify_of_isFinite {p : Word} (h : isFinite p = true) :
    classify p = .fin (signBit p) (magnitude p) := by
  simp [classify, h]

@[simp] theorem classify_infinity (s : Bool) : classify (infinity s) = .inf s := by
  simp [classify, isFinite, isNaN, infinity]

@[simp] theorem classify_zero (s : Bool) : classify (zero s) = .fin s 0 := by
  simp [classify, isFinite, zero, magnitude]

theorem nanPattern_eq (sg : BitVec 1) (f : Fin 4503599627370495) :
    nanPattern sg f = pattern (sg == 1) 2047 (f.val + 1) := by
  have h : ∀ b : BitVec 1, b = BitVec.ofBool (b == 1) := by decide
  rw [nanPattern, pattern, ← h]

/-- Whatever is drawn is a NaN (R92). -/
theorem isNaN_nanPattern (sg : BitVec 1) (f : Fin 4503599627370495) : isNaN (nanPattern sg f) = true := by
  have hf := f.isLt
  rw [nanPattern_eq, isNaN, expField_pattern, fracField_pattern, Nat.mod_eq_of_lt (by omega : f.val + 1 < 2 ^ 52)]
  simp

theorem State.isNaN_nanDraw (s : State) : isNaN s.nanDraw = true := isNaN_nanPattern _ _

@[simp] theorem settle_some (draw v : Word) : settle draw (some v) = v := rfl
@[simp] theorem settle_none (draw : Word) : settle draw none = draw := rfl

/-- The rounded quotient is a neighbour of the exact one. -/
theorem roundHalfEven_cases (n d : Nat) : roundHalfEven n d = n / d ∨ roundHalfEven n d = n / d + 1 := by
  unfold roundHalfEven
  simp only
  split
  · exact .inl rfl
  · split
    · exact .inr rfl
    · split
      · exact .inl rfl
      · exact .inr rfl

/-- The last stage of the rounding: a result of exponent `u` and integer `n` is an infinity or a finite pattern. -/
theorem ite_pattern_cases (sign : Bool) (u n : Nat) :
    (if 1023 + 1074 < u then infinity sign
      else if n < 2 ^ 52 then pattern sign 0 n else pattern sign (u - 51) (n - 2 ^ 52)) = infinity sign ∨
    ∃ e f, e < 2047 ∧ (if 1023 + 1074 < u then infinity sign
      else if n < 2 ^ 52 then pattern sign 0 n else pattern sign (u - 51) (n - 2 ^ 52)) = pattern sign e f := by
  by_cases h : 1023 + 1074 < u
  · exact .inl (if_pos h)
  · by_cases h' : n < 2 ^ 52
    · exact .inr ⟨0, n, by omega, by rw [if_neg h, if_pos h']⟩
    · exact .inr ⟨u - 51, n - 2 ^ 52, by omega, by rw [if_neg h, if_neg h']⟩

/-- Rounding gives an infinity, or a finite pattern, of the sign asked for (R83). -/
theorem rne_cases (sign : Bool) (num den : Nat) :
    rne sign num den = infinity sign ∨ ∃ e f, e < 2047 ∧ rne sign num den = pattern sign e f :=
  ite_pattern_cases sign _ _

theorem fmul_nan {a b : Word} (h : isNaN a = true ∨ isNaN b = true) : fmul a b = none := by
  rcases h with h | h
  · simp [fmul, classify_of_isNaN h]
  · cases ha : classify a <;> simp [fmul, classify_of_isNaN h, ha]

theorem fadd_nan {a b : Word} (h : isNaN a = true ∨ isNaN b = true) : fadd a b = none := by
  rcases h with h | h
  · simp [fadd, classify_of_isNaN h]
  · cases ha : classify a <;> simp [fadd, classify_of_isNaN h, ha]

/-- The product of two finite non-zero data is one rounding of the exact product (R84). -/
theorem fmul_finite {a b : Word} (ha : isFinite a = true) (hb : isFinite b = true) (h : magnitude a ≠ 0)
    (h' : magnitude b ≠ 0) : fmul a b =
      some (rne (signBit a ^^ signBit b) (magnitude a * magnitude b) (2 ^ 1074 * 2 ^ 1074)) := by
  simp only [fmul, classify_of_isFinite ha, classify_of_isFinite hb, h, h', or_self, if_false]

/-- A zero factor gives the zero of the product's sign (R84). -/
theorem fmul_zero_of_finite {a b : Word} (ha : isFinite a = true) (hb : isFinite b = true)
    (h : magnitude a = 0 ∨ magnitude b = 0) : fmul a b = some (zero (signBit a ^^ signBit b)) := by
  simp only [fmul, classify_of_isFinite ha, classify_of_isFinite hb, if_pos h]

/-- The sum of two finite data with a non-zero exact sum is one rounding of it (R85). -/
theorem fadd_finite {a b : Word} (ha : isFinite a = true) (hb : isFinite b = true)
    (h : signed (signBit a) (magnitude a) + signed (signBit b) (magnitude b) ≠ 0) : fadd a b =
      some (rne (decide (signed (signBit a) (magnitude a) + signed (signBit b) (magnitude b) < 0))
        (signed (signBit a) (magnitude a) + signed (signBit b) (magnitude b)).natAbs (2 ^ 1074)) := by
  simp only [fadd, classify_of_isFinite ha, classify_of_isFinite hb, if_neg h]

end Sys2Proof.Machine
end

