-- ==== Sys2Proof/Laws/Decode.lean ====
section
/-! SUPPORT. The record of an instruction as a number, and the fields of a record as quotients (R60). -/

namespace Sys2Proof

theorem encode_toNat (i : Instr) :
    (encode i).toNat = (opcode i).toNat * 2 ^ 128 + (operandA i).toNat * 2 ^ 64 + (operandB i).toNat := by
  have h1 := Machine.toNat_append_arith (opcode i ++ operandA i) (operandB i)
  have h2 := Machine.toNat_append_arith (opcode i) (operandA i)
  rw [h2] at h1
  exact h1.trans (by omega)

theorem opField_toNat (w : CommandRecord) : (opField w).toNat = w.toNat / 2 ^ 128 % 8 := by
  simp [opField, BitVec.extractLsb'_toNat, Nat.shiftRight_eq_div_pow]

theorem fieldA_toNat (w : CommandRecord) : (fieldA w).toNat = w.toNat / 2 ^ 64 % 2 ^ 64 := by
  simp [fieldA, BitVec.extractLsb'_toNat, Nat.shiftRight_eq_div_pow]

theorem fieldB_toNat (w : CommandRecord) : (fieldB w).toNat = w.toNat % 2 ^ 64 := by
  simp [fieldB, BitVec.extractLsb'_toNat]

end Sys2Proof
end

