-- ==== Sys2Proof/Laws/State.lean ====
section
/-! SUPPORT. What each update of the state does to each field, and to the `seeded` flag. -/

namespace Sys2Proof.Machine

variable (s : State)

@[simp] theorem State.writeRegs_regs (r : Regs) : (s.writeRegs r).regs = some r := rfl
@[simp] theorem State.writeRegs_hardenedRange (r : Regs) : (s.writeRegs r).hardenedRange = s.hardenedRange := rfl
@[simp] theorem State.writeRegs_response (r : Regs) : (s.writeRegs r).response = s.response := rfl
@[simp] theorem State.writeRegs_host (r : Regs) : (s.writeRegs r).host = s.host := rfl
@[simp] theorem State.writeRegs_nanDraws (r : Regs) : (s.writeRegs r).nanDraws = s.nanDraws := rfl

@[simp] theorem State.clearSeeded_regs : (s.clearSeeded).regs = none := rfl
@[simp] theorem State.clearSeeded_hardenedRange : (s.clearSeeded).hardenedRange = s.hardenedRange := rfl
@[simp] theorem State.clearSeeded_response : (s.clearSeeded).response = s.response := rfl
@[simp] theorem State.clearSeeded_host : (s.clearSeeded).host = s.host := rfl
@[simp] theorem State.clearSeeded_nanDraws : (s.clearSeeded).nanDraws = s.nanDraws := rfl

@[simp] theorem State.spendDraw_regs : (s.spendDraw).regs = s.regs := rfl
@[simp] theorem State.spendDraw_hardenedRange : (s.spendDraw).hardenedRange = s.hardenedRange := rfl
@[simp] theorem State.spendDraw_response : (s.spendDraw).response = s.response := rfl
@[simp] theorem State.spendDraw_host : (s.spendDraw).host = s.host := rfl
@[simp] theorem State.spendDraw_nanDraws : (s.spendDraw).nanDraws = s.nanDraws + 1 := rfl

@[simp] theorem State.answer_regs (st : Status) (p : Payload) : (s.answer st p).regs = s.regs := rfl
@[simp] theorem State.answer_hardenedRange (st : Status) (p : Payload) : (s.answer st p).hardenedRange = s.hardenedRange := rfl
@[simp] theorem State.answer_response (st : Status) (p : Payload) : (s.answer st p).response = some ⟨st, p⟩ := rfl
@[simp] theorem State.answer_host (st : Status) (p : Payload) : (s.answer st p).host = s.host := rfl
@[simp] theorem State.answer_nanDraws (st : Status) (p : Payload) : (s.answer st p).nanDraws = s.nanDraws := rfl

@[simp] theorem State.applyReset_regs : (s.applyReset).regs = none := rfl
@[simp] theorem State.applyReset_hardenedRange : (s.applyReset).hardenedRange = s.hardenedRange := rfl
@[simp] theorem State.applyReset_response : (s.applyReset).response = none := rfl
@[simp] theorem State.applyReset_host : (s.applyReset).host = s.host := rfl
@[simp] theorem State.applyReset_nanDraws : (s.applyReset).nanDraws = s.nanDraws := rfl

@[simp] theorem State.present_regs (w : CommandRecord) : (s.present w).regs = s.regs := rfl
@[simp] theorem State.present_hardenedRange (w : CommandRecord) : (s.present w).hardenedRange = s.hardenedRange := rfl
@[simp] theorem State.present_response (w : CommandRecord) : (s.present w).response = s.response := rfl
@[simp] theorem State.present_host (w : CommandRecord) : (s.present w).host = .command w :: s.host := rfl
@[simp] theorem State.present_nanDraws (w : CommandRecord) : (s.present w).nanDraws = s.nanDraws := rfl

@[simp] theorem State.writeRegs_seeded (r : Regs) : (s.writeRegs r).seeded = true := rfl
@[simp] theorem State.clearSeeded_seeded : s.clearSeeded.seeded = false := rfl
@[simp] theorem State.spendDraw_seeded : s.spendDraw.seeded = s.seeded := rfl
@[simp] theorem State.answer_seeded (st : Status) (p : Payload) : (s.answer st p).seeded = s.seeded := rfl
@[simp] theorem State.applyReset_seeded : s.applyReset.seeded = false := rfl
@[simp] theorem State.present_seeded (w : CommandRecord) : (s.present w).seeded = s.seeded := rfl

theorem State.seeded_iff : s.seeded = true ↔ ∃ r, s.regs = some r := Option.isSome_iff_exists

theorem State.not_seeded_iff : s.seeded = false ↔ s.regs = none := by
  cases h : s.regs <;> simp [State.seeded, h]

@[simp] theorem Regs.get_zero (r : Regs) : r.get 0 = r.r0 := rfl
@[simp] theorem Regs.get_one (r : Regs) : r.get 1 = r.r1 := rfl
@[simp] theorem Regs.get_two (r : Regs) : r.get 2 = r.r2 := rfl
@[simp] theorem Regs.get_three (r : Regs) : r.get 3 = r.r3 := rfl

theorem Regs.get_set (r : Regs) (i j : Fin 4) (v : Word) :
    (r.set i v).get j = if j = i then v else r.get j := by
  fin_cases i <;> fin_cases j <;> rfl

end Sys2Proof.Machine
end

