-- ==== Sys2Proof/Laws/Ops.lean ====
section
/-! SUPPORT. What each shared operation and each meaning can answer, said once. -/

namespace Sys2Proof.Machine

theorem respondOk_next {p : Payload} {s t : State} (h : respondOk p s = .next t) : t = s.answer .ok p := by
  cases h; rfl

theorem raise_next {c : Condition} {s t : State} (h : raise c s = .next t) : t = s.answer (.raised c) 0 := by
  cases h; rfl

theorem whenSeeded_none {s : State} {op : Regs → Result} (h : s.regs = none) :
    whenSeeded s op = raise .notSeeded s := by
  simp [whenSeeded, h]

theorem whenSeeded_some {s : State} {op : Regs → Result} {r : Regs} (h : s.regs = some r) :
    whenSeeded s op = op r := by
  simp [whenSeeded, h]

/-- The seeded check answers `NotSeeded`, or goes on with the registers (R183). -/
theorem whenSeeded_next {s t : State} {op : Regs → Result} (h : whenSeeded s op = .next t) :
    (s.regs = none ∧ t = s.answer (.raised .notSeeded) 0) ∨ ∃ r, s.regs = some r ∧ op r = .next t := by
  cases hr : s.regs with
  | none => exact .inl ⟨rfl, raise_next (by rwa [whenSeeded_none hr] at h)⟩
  | some r => exact .inr ⟨r, rfl, by rwa [whenSeeded_some hr] at h⟩

/-- The step, slot by slot: the new registers, and their xor (R126). -/
theorem advance_eq (r : Regs) :
    advance r = (gen (slot 0) r.r0 ^^^ gen (slot 1) r.r1 ^^^ gen (slot 2) r.r2 ^^^ gen (slot 3) r.r3,
      ⟨gen (slot 0) r.r0, gen (slot 1) r.r1, gen (slot 2) r.r2, gen (slot 3) r.r3⟩) := by
  simp [advance, slotOrder, stepSlot, Regs.get, Regs.set]

@[simp] theorem fraction_regs (draw : Word) (r : Regs) : (fraction draw r).2 = (advance r).2 := rfl

@[simp] theorem fraction_value (draw : Word) (r : Regs) :
    (fraction draw r).1 = fractionOf draw (advance r).1 := rfl

theorem respondMapped_next {v : Option Word} {s t : State} (h : respondMapped v s = .next t) :
    t = s.spendDraw.answer .ok (zext256 (settle s.nanDraw v)) := respondOk_next h

/-- A mapped value with a pattern is answered as it is; otherwise some NaN pattern is (R92, R158). -/
theorem settle_cases (s : State) (v : Option Word) :
    v = some (settle s.nanDraw v) ∨ (v = none ∧ isNaN (settle s.nanDraw v) = true) := by
  cases v with
  | none => exact .inr ⟨rfl, s.isNaN_nanDraw⟩
  | some w => exact .inl rfl

theorem rangeRejected_iff {s : State} {m n : Word} :
    rangeRejected s m n = true ↔ s.hardenedRange = true ∧ flt n m = true := by
  simp [rangeRejected]

/-- The warm-up is the step, so many times (R108). -/
theorem warmUp_eq_iterate (n : Nat) (r : Regs) : warmUp n r = (fun r => (advance r).2)^[n] r := by
  induction n generalizing r with
  | zero => rfl
  | succ n ih => exact ih (advance r).2

/-- The mask of a slot isolates the position of its lowest live bit (R68, R103). -/
theorem seedMask_toNat (i : Fin 4) : (seedMask i).toNat = 2 ^ (64 - (slot i).k) := by
  fin_cases i <;> decide

/-- SEED rejects its operand, or seeds the block (R100, R101). -/
theorem execSeed_next {a : Word} {s t : State} (h : execSeed a s = .next t) :
    (isFinite a = false ∧ t = s.answer (.raised .invalidSeed) 0) ∨
    (isFinite a = true ∧ t = (s.writeRegs (warmUp warmUpSteps (deriveRegs s.nanDraw a))).answer .ok 0) := by
  unfold execSeed at h
  split at h
  · exact .inr ⟨‹_›, respondOk_next h⟩
  · exact .inl ⟨Bool.eq_false_iff.2 ‹¬isFinite a = true›, raise_next h⟩

/-- What a command can do to the state (R198): answer a condition and nothing else; seed; advance the registers one
step and answer; read out. -/
theorem exec_next_cases {i : Instr} {s t : State} (h : exec i s = .next t) :
    (∃ c, t = s.answer (.raised c) 0) ∨
    (∃ a b, i = .seed a b ∧ isFinite a = true ∧
      t = (s.writeRegs (warmUp warmUpSteps (deriveRegs s.nanDraw a))).answer .ok 0) ∨
    (∃ r v, s.regs = some r ∧
      (t = (s.writeRegs (advance r).2).answer .ok (zext256 v) ∨
        t = (s.writeRegs (advance r).2).spendDraw.answer .ok (zext256 v))) ∨
    (∃ a b r, i = .dump a b ∧ s.regs = some r ∧ t = s.answer .ok (dumpPayload r)) := by
  cases i with
  | seed a b =>
    simp only [exec, execSeed] at h
    split at h
    · exact .inr (.inl ⟨a, b, rfl, ‹_›, respondOk_next h⟩)
    · exact .inl ⟨_, raise_next h⟩
  | step a b =>
    obtain ⟨_, rfl⟩ | ⟨r, hr, h⟩ := whenSeeded_next h
    · exact .inl ⟨_, rfl⟩
    · exact .inr (.inr (.inl ⟨r, _, hr, .inl (respondOk_next h)⟩))
  | frac a b =>
    obtain ⟨_, rfl⟩ | ⟨r, hr, h⟩ := whenSeeded_next h
    · exact .inl ⟨_, rfl⟩
    · exact .inr (.inr (.inl ⟨r, _, hr, .inl (respondOk_next h)⟩))
  | rand0 a b =>
    obtain ⟨_, rfl⟩ | ⟨r, hr, h⟩ := whenSeeded_next h
    · exact .inl ⟨_, rfl⟩
    · exact .inr (.inr (.inl ⟨r, _, hr, .inl (respondOk_next h)⟩))
  | rand1 a b =>
    obtain ⟨_, rfl⟩ | ⟨r, hr, h⟩ := whenSeeded_next h
    · exact .inl ⟨_, rfl⟩
    · exact .inr (.inr (.inl ⟨r, _, hr, .inr (respondOk_next h)⟩))
  | rand2 a b =>
    obtain ⟨_, rfl⟩ | ⟨r, hr, h⟩ := whenSeeded_next h
    · exact .inl ⟨_, rfl⟩
    · split at h
      · exact .inl ⟨_, raise_next h⟩
      · exact .inr (.inr (.inl ⟨r, _, hr, .inr (respondOk_next h)⟩))
  | dump a b =>
    obtain ⟨_, rfl⟩ | ⟨r, hr, h⟩ := whenSeeded_next h
    · exact .inl ⟨_, rfl⟩
    · exact .inr (.inr (.inr ⟨a, b, r, rfl, hr, respondOk_next h⟩))
  | ill a b => exact .inl ⟨_, raise_next h⟩

end Sys2Proof.Machine
end

