-- ==== Sys2Proof/Laws/PerInstr.lean ====
section
/-! SUPPORT. The per-instruction family `opcodeField`: the record of an instruction is a command record, and its top
three bits are the instruction's opcode (R60, R61). -/

namespace Sys2Proof.Laws

/-- The record fits the 131 bits of R60 and carries the opcode in bits 130:128. -/
def opcodeField.Statement (i : Instr) : Prop :=
  isCommandRecord (encode i).toNat = true ∧ opField (encode i) = opcode i

theorem opcodeField_all (i : Instr) : opcodeField.Statement i := by
  refine ⟨by simpa [isCommandRecord] using (encode i).isLt, BitVec.eq_of_toNat_eq ?_⟩
  have := (opcode i).isLt
  have := (operandA i).isLt
  have := (operandB i).isLt
  rw [opField_toNat, encode_toNat]
  omega

theorem opcodeField.seed (a b : Word) : opcodeField.Statement (.seed a b) := opcodeField_all _
theorem opcodeField.step (a b : Word) : opcodeField.Statement (.step a b) := opcodeField_all _
theorem opcodeField.frac (a b : Word) : opcodeField.Statement (.frac a b) := opcodeField_all _
theorem opcodeField.rand0 (a b : Word) : opcodeField.Statement (.rand0 a b) := opcodeField_all _
theorem opcodeField.rand1 (a b : Word) : opcodeField.Statement (.rand1 a b) := opcodeField_all _
theorem opcodeField.rand2 (a b : Word) : opcodeField.Statement (.rand2 a b) := opcodeField_all _
theorem opcodeField.dump (a b : Word) : opcodeField.Statement (.dump a b) := opcodeField_all _
theorem opcodeField.ill (a b : Word) : opcodeField.Statement (.ill a b) := opcodeField_all _

end Sys2Proof.Laws
end

