-- ==== Sys2Proof/Laws/Step.lean ====
section
/-! SUPPORT. What one step of the machine can be, said once. -/

namespace Sys2Proof.Machine

/-- A step is idle, a reset, or one command (R48, R50, R197, R211). -/
theorem step_next_cases {s t : State} (h : step s = .next t) :
    (s.host = [] ∧ t = s) ∨
    (∃ rest, s.host = .reset :: rest ∧ t = State.applyReset { s with host := rest }) ∨
    (∃ w rest, s.host = .command w :: rest ∧ exec (decode w) { s with host := rest } = .next t) := by
  cases hh : s.host with
  | nil =>
    simp only [step, State.arrival, hh] at h
    exact .inl ⟨rfl, by cases h; rfl⟩
  | cons e rest =>
    cases e with
    | reset =>
      simp only [step, State.arrival, hh] at h
      exact .inr (.inl ⟨rest, rfl, by cases h; rfl⟩)
    | command w =>
      simp only [step, State.arrival, hh] at h
      exact .inr (.inr ⟨w, rest, rfl, h⟩)

end Sys2Proof.Machine
end

