-- ==== Sys2Proof/Tests/Slice0.lean ====
section
/-! SUPPORT. The model's own tests. Expected values come from the spec: 30_encoding R61 and R72, the programs of
95_test_vectors section 4 and 96_more_vectors section C, the tables of 95 sections 1 to 2 and 96 sections A and B. The
theorems named witness_… show that the hypotheses of the statement of that name can be met. -/

namespace Sys2Proof.Tests

open Sys2Proof Sys2Proof.Machine

-- The many small kernel evaluations below are run one after another: each would otherwise hold a thread of its own.
set_option Elab.async false

/-! ### Checks of records and of the assembled form -/

theorem test_record_too_long_refused : isCommandRecord (2 ^ 131) = false := by decide
theorem test_record_longest_accepted : isCommandRecord (2 ^ 131 - 1) = true := by decide
theorem test_decode_too_long_by_name : decodeNumber (2 ^ 131) = .error .notACommandRecord := by decide +kernel
theorem test_seed_not_assembled : (Instr.seed 0 1).assembled = false := by decide
theorem test_step_not_assembled : (Instr.step 1 0).assembled = false := by decide
theorem test_frac_not_assembled : (Instr.frac 0 1).assembled = false := by decide
theorem test_rand0_not_assembled : (Instr.rand0 1 0).assembled = false := by decide
theorem test_rand1_not_assembled : (Instr.rand1 0 1).assembled = false := by decide
theorem test_rand2_assembled : (Instr.rand2 1 1).assembled = true := by decide
theorem test_dump_not_assembled : (Instr.dump 0 1).assembled = false := by decide
theorem test_ill_not_assembled : (Instr.ill 1 0).assembled = false := by decide

/-! ### Decoding records written out from R60 and R61 -/

theorem test_decode_seed : decode 0x041D9A90EFE8000000123456789ABCDEF =
    .seed 0x41D9A90EFE800000 0x0123456789ABCDEF := by decide +kernel
theorem test_decode_step : decode 0x1000000000000000F000000000000000A = .step 0xF 0xA := by decide +kernel
theorem test_decode_frac : decode 0x28000000000000000FFFFFFFFFFFFFFFF =
    .frac 0x8000000000000000 0xFFFFFFFFFFFFFFFF := by decide +kernel
theorem test_decode_rand0 : decode 0x300000000000000000000000000000001 = .rand0 0 1 := by decide +kernel
theorem test_decode_rand1 : decode 0x440180000000000000000000000000000 = .rand1 0x4018000000000000 0 := by
  decide +kernel
theorem test_decode_rand2 : decode 0x5C0080000000000004008000000000000 =
    .rand2 0xC008000000000000 0x4008000000000000 := by decide +kernel
theorem test_decode_dump : decode 0x600000000000000000000000000000000 = .dump 0 0 := by decide +kernel
theorem test_decode_ill : decode 0x7FFFFFFFFFFFFFFFFFFFFFFFFFFFFFFFF =
    .ill 0xFFFFFFFFFFFFFFFF 0xFFFFFFFFFFFFFFFF := by decide +kernel

/-! ### One step on small states -/

/-- The registers SEED leaves for 1722039290 (GPRNG §8). -/
def golden : Regs := ⟨0x9C273D7EC3EE4C37, 0xE8D843E1505FBE3D, 0xB0A462974D1A8C4F, 0xF86E3D365E5EBD4B⟩

/-- The golden registers after one step (95 section 2.2). -/
def goldenNext : Regs := ⟨0xF5FB0FB930DFEE80, 0x1505FBE3DF4B0472, 0x52314BA68D4627E9, 0x6E3D365E5EBD4BED⟩

/-- A block holding registers, with a strap. -/
def holding (hardened : Bool) (r : Regs) : State := { State.reset with regs := some r, hardenedRange := hardened }

/-- The registers and the response a command leaves. -/
def outcome (i : Instr) (s : State) : Option (Option Regs × Option Response) :=
  match exec i s with
  | .next t => some (t.regs, t.response)
  | .fault _ => none
  | .refused _ => none

/-- A completed command with a 64-bit result. -/
def done (r : Regs) (v : Word) : Option (Option Regs × Option Response) := some (some r, some ⟨.ok, zext256 v⟩)

/-- A command that raised a condition. -/
def refusedWith (r : Option Regs) (c : Condition) : Option (Option Regs × Option Response) :=
  some (r, some ⟨.raised c, 0⟩)

theorem test_seed_golden : outcome (.seed 0x41D9A90EFE800000 0) State.reset = done golden 0 := by decide +kernel
theorem test_seed_infinite : outcome (.seed 0x7FF0000000000000 0) (holding false golden) =
    refusedWith (some golden) .invalidSeed := by decide +kernel
theorem test_step_golden : outcome (.step 0 0) (holding false golden) = done goldenNext 0xDCF289A23C6F86F6 := by
  decide +kernel
theorem test_step_unseeded : outcome (.step 0 0) State.reset = refusedWith none .notSeeded := by decide +kernel
theorem test_frac_golden : outcome (.frac 0 0) (holding false golden) = done goldenNext 0x3FC44D11E37C37B0 := by
  decide +kernel
theorem test_rand0_golden : outcome (.rand0 0 0) (holding true golden) = done goldenNext 0x3FC44D11E37C37B0 := by
  decide +kernel
theorem test_rand1_negative : outcome (.rand1 0xC008000000000000 0) (holding false golden) = done goldenNext 0 := by
  decide +kernel
theorem test_rand2_reversed : outcome (.rand2 0x4014000000000000 0x4000000000000000) (holding false golden) =
    done goldenNext 0x4010000000000000 := by decide +kernel
theorem test_rand2_rejected : outcome (.rand2 0x4014000000000000 0x4000000000000000) (holding true golden) =
    refusedWith (some golden) .invalidRange := by decide +kernel
theorem test_dump_golden : (outcome (.dump 0 0) (holding false golden)) = some (some golden,
    some ⟨.ok, 0xF86E3D365E5EBD4BB0A462974D1A8C4FE8D843E1505FBE3D9C273D7EC3EE4C37⟩) := by decide +kernel
theorem test_ill_seeded : outcome (.ill 5 6) (holding false golden) = refusedWith (some golden) .illegalOp := by
  decide +kernel

/-- A NaN bound gives some NaN pattern, not a condition (95 section 2.6, `RAND1 nan`). -/
theorem test_rand1_nan : ∃ v, isNaN v = true ∧
    outcome (.rand1 0x7FF8000000000000 0) (holding true golden) = done goldenNext v := by
  refine ⟨_, State.isNaN_nanDraw (holding true golden), ?_⟩
  have hf : fraction (holding true golden).nanDraw golden = (0x3FC44D11E37C37B0, goldenNext) := by decide +kernel
  have hm : map1 0x3FC44D11E37C37B0 0x7FF8000000000000 = none := by decide +kernel
  have hx : exec (.rand1 0x7FF8000000000000 0) (holding true golden) =
      respondMapped none ((holding true golden).writeRegs goldenNext) := by
    show execRand1 _ _ = _
    rw [execRand1, whenSeeded_some (r := golden) rfl, hf, ← hm]
  rw [outcome, hx]
  rfl

/-! ### Parts: slot updates, guard, numerics, text -/

theorem test_gen_slots : slotOrder.map (fun i => gen (slot i) 0x0123456789ABCDEF) =
    [0x159E26AF37BE2FB5, 0x789ABCDCA87C20E7, 0x91A2B3C4D5E666AA, 0x23456789AB5BA4E0] := by decide +kernel
theorem test_guard_fires : guardWord 0 0 = 0x2 ∧ recurrence 0xBFEBB02D4ECA8F95 = some 0 := by decide +kernel
theorem test_recurrence_not_fused : recurrence 0x4036000000000000 = some 0x4051F5551E4781BB := by decide +kernel
theorem test_width_groups_left : rangeWidth 0x3FF0000000000000 0x4340000000000000 = some 0x4340000000000000 := by
  decide +kernel
theorem test_subnormal_product : fmul 0x3FE0000000000000 0x00000000000007E8 = some 0x00000000000003F4 := by
  decide +kernel
theorem test_tie_to_even : fadd 0x4340000000000000 0x3FF0000000000000 = some 0x4340000000000000 := by decide +kernel
theorem test_render_golden : render 0x9C273D7EC3EE4C37 =
    "10011100 00100111 00111101 01111110 11000011 11101110 01001100 00110111" := by decide +kernel
theorem test_assemble : assembleText "RESET\nSEED 1722039290 ; golden\nRAND2 -3.0, 3.0".toList = .ok
    [.reset, .command 0x041D9A90EFE8000000000000000000000,
      .command 0x5C0080000000000004008000000000000] := by decide +kernel
theorem test_assemble_unknown : assembleText "SEED".toList = .error (.notALine ["SEED".toList]) := by decide +kernel
theorem test_reset_event : step { holding true golden with host := [.reset] } = .next
    { State.reset with hardenedRange := true } := rfl
theorem test_fetch_word : decodeTableWord 136 0x600000000000000000000000000000000 = some (.dump 0 0) := by
  decide +kernel

/-! ### Witnesses of hypotheses -/

theorem next_of_answersNext {o : Result} (h : answersNext o = true) : ∃ t, o = .next t := by
  cases o with
  | next t => exact ⟨t, rfl⟩
  | fault f => cases h
  | refused f => cases h

/-- Registers from which the next fraction is the least, `+0`. -/
def leastNext : Regs := ⟨0x2000800000010080, 0x40, 0x200, 0x20000⟩

/-- Registers from which the next fraction is the greatest, `1 - 2^-52`. -/
def greatestNext : Regs := ⟨0x20008003FFFEFF7E, 0x40, 0x200, 0x20000⟩

theorem test_extreme_draws : drawnBits leastNext = 0 ∧ drawnBits greatestNext = 2 ^ 52 - 1 ∧
    leastNext.live = true ∧ greatestNext.live = true := by decide +kernel

theorem witness_RecordFieldsStandInTheirBits : 63 < 64 ∧ 2 < 3 := by decide

theorem witness_StepPerformsTheDecodedCommand :
    ({ State.reset with host := [.command 0] } : State).host = .command 0 :: [] ∧
    decodeTableWord 136 (2 ^ 131 - 1) = some (.ill 0xFFFFFFFFFFFFFFFF 0xFFFFFFFFFFFFFFFF) := by decide +kernel

theorem witness_ResetLeavesTheBlockUnseeded :
    ({ holding true golden with host := [.reset] } : State).host = .reset :: [] ∧
    (∀ a b, Instr.dump 0 0 ≠ .seed a b) ∧ ∀ a b, Instr.dump 0 0 ≠ .ill a b := by
  refine ⟨rfl, ?_, ?_⟩ <;> intro a b h <;> cases h

theorem witness_IdleBlockHoldsItsState : State.reset.host = [] := rfl

theorem witness_StrapNeverChanges : step (holding true golden) = .next (holding true golden) := rfl

theorem witness_FaultingCommandChangesNothing :
    exec (.ill 0 0) State.reset = .next (State.reset.answer (.raised .illegalOp) 0) ∧
    (State.reset.answer (.raised .illegalOp) 0).response = some ⟨.raised .illegalOp, 0⟩ ∧
    Status.raised .illegalOp ≠ .ok := ⟨rfl, rfl, by decide⟩

theorem witness_ResponseRecordHasItsForm :
    (∀ a b, Instr.ill 0 0 ≠ .dump a b) ∧
    exec (.ill 0 0) State.reset = .next (State.reset.answer (.raised .illegalOp) 0) ∧
    (State.reset.answer (.raised .illegalOp) 0).response = some ⟨.raised .illegalOp, 0⟩ :=
  ⟨fun _ _ => Instr.noConfusion, rfl, rfl⟩

theorem witness_CommandsOnlyEverSetSeeded : ∃ t, exec (.seed 0 0) State.reset = .next t :=
  next_of_answersNext (by decide +kernel)

theorem witness_EveryStepKeepsTheBlockSound : (holding false golden).sound = true ∧
    step (holding false golden) = .next (holding false golden) := ⟨by decide +kernel, rfl⟩

theorem witness_DegenerateRegistersNeverArise :
    ∃ t, Host.Core.run Sys2Proof.core 1 { State.reset with hardenedRange := true, host := [.command 0] } = .next t ∧
      t.regs = some ⟨0xA0D277570A345B8C, 0x764A296C5D4AA64F, 0x51220704070ADEAA, 0x2A2717B5A7B7B927⟩ :=
  ⟨(State.reset.writeRegs (warmUp 10 (deriveRegs State.reset.nanDraw 0))).answer .ok 0 |> fun u =>
      { u with hardenedRange := true }, rfl, by decide +kernel⟩

theorem witness_RoundingIsNearestTiesToEven :
    rne true ((2 ^ 54 - 1) * 2 ^ 970) 1 = infinity true ∧
    rne true ((2 ^ 54 - 1) * 2 ^ 970 - 1) 1 = 0xFFEFFFFFFFFFFFFF ∧ rne false 1 (2 ^ 1075) = 0 ∧
    isFinite 0 = true := by decide +kernel

theorem witness_FloorIsTheLargestIntegerBelow :
    isNaN 0x7FF0000000000001 = true ∧ magnitude 0x4330000000000000 = 2 ^ 52 * 2 ^ 1074 ∧
    signBit 0x3FEFFFFFFFFFFFFF = false ∧ magnitude 0x3FEFFFFFFFFFFFFF < 2 ^ 1074 ∧ 0 < magnitude 1 ∧
    signBit 0xBFF0000000000000 = true ∧ magnitude 0xBFF0000000000000 = 2 ^ 1074 ∧
    isFinite 0x8000000000000001 = true := by decide +kernel

theorem witness_OrderedLessFollowsTheValues :
    isNaN 0xFFF8000000000000 = true ∧ isFinite 0x8000000000000000 = true ∧ isFinite 1 = true ∧
    isNaN (infinity true) = false ∧ isNaN 0x7FEFFFFFFFFFFFFF = false := by decide +kernel

theorem witness_SubtractionIsAdditionOfTheNegative : isFinite 0xFFEFFFFFFFFFFFFF = true := by decide +kernel

theorem witness_RecurrenceNeverYieldsNaN :
    isNaN 0x7FF0000000000000 = false ∧ isFinite 0xBFEBB02D4ECA8F95 = true ∧ isFinite 0x7FEFFFFFFFFFFFFF = true := by
  decide +kernel

theorem witness_SeedDerivesGuardsAndWarmsUp : isFinite 0x7FEFFFFFFFFFFFFF = true := by decide +kernel

theorem witness_SeedRejectsNonFiniteOperands :
    expField 0x7FF0000000000000 = 2047 ∧ expField 0xFFFFFFFFFFFFFFFF = 2047 ∧ expField 0x7FEFFFFFFFFFFFFF ≠ 2047 := by decide +kernel

theorem witness_SeedDependsOnItsOperandOnly : isFinite 0xFFEFFFFFFFFFFFFF = true := by decide +kernel

theorem witness_GuardFiresOnlyOnPlusZero :
    recurrence 0xBFEBB02D4ECA8F95 = some 0 ∧ (0 : Word).toNat < 2 ^ (64 - (slot 0).k) ∧
    recurrence 0xBFEBB02D4ECA8F94 = some 0x3CC0000000000000 ∧ isFinite 0x3CC0000000000000 = true := by decide +kernel

theorem witness_ExtremeSeedsCoincide :
    isFinite 0x7FE1CCF385EBC8A0 = true ∧ fmul 0x7FE1CCF385EBC8A0 pi64 = some (infinity false) ∧
    isFinite 0xFFEFFFFFFFFFFFFF = true ∧ fmul 0xFFEFFFFFFFFFFFFF pi64 = some (infinity true) ∧
    isFinite 0x8000000000000000 = true ∧ recurrence 0x8000000000000000 = some e64 ∧ recurrence 1 = some e64 ∧
    answersNext (exec (.seed 0x7FE1CCF385EBC8A0 0) State.reset) = true ∧
    answersNext (exec (.seed 0xFFEFFFFFFFFFFFFF 0) State.reset) = true ∧
    answersNext (exec (.seed 1 0) State.reset) = true := by decide +kernel

theorem witness_SlotUpdateBitByBit : 19 < 64 ∧ 18 ≤ 63 - (slot 0).k + (slot 0).s ∧
    ¬ 19 ≤ 63 - (slot 0).k + (slot 0).s := by decide

theorem witness_SlotUpdateIsLinearAndDropsDeadBits :
    (0x1FFFF : Word).toNat < 2 ^ (64 - (slot 3).k) ∧ liveRegion 3 0x1FFFF = liveRegion 3 0 := by decide +kernel

theorem witness_SlotUpdateIsABijectionOfLiveRegions :
    liveRegion 0 1 = 0 ∧ liveRegion 0 (gen (slot 0) 2) = liveRegion 0 (gen (slot 0) 3) ∧
    2 ^ 63 - 1 < 2 ^ (slot 0).k := by decide +kernel

theorem witness_DeadBitsInfluenceNothing :
    SameLiveRegions ⟨2, 0x40, 0x200, 0x20000⟩ ⟨3, 0x7F, 0x3FF, 0x3FFFF⟩ ∧
    drawsUnder true (.rand2 0x4000000000000000 0x4000000000000000) = true ∧
    drawsUnder true (.rand2 0x4014000000000000 0x4000000000000000) = false ∧
    ∀ a b, Instr.rand2 0x4014000000000000 0x4000000000000000 ≠ .dump a b := by
  refine ⟨?_, by decide +kernel, by decide +kernel, fun _ _ => Instr.noConfusion⟩
  show ∀ j, _
  decide +kernel

theorem witness_ValueOperationsSpendOneStep : (holding true golden).regs = some golden ∧
    drawsUnder (holding true golden).hardenedRange (.rand2 0x4014000000000000 0x4014000000000000) = true ∧
    drawsUnder (holding false golden).hardenedRange (.rand2 0x4014000000000000 0x4000000000000000) = true := by
  decide +kernel

theorem witness_StepUpdatesTheFourSlots : (holding false golden).regs = some golden := rfl

theorem witness_FracAndRand0ReturnTheFraction : State.reset.regs = none ∧
    (holding false leastNext).regs = some leastNext ∧ (holding false greatestNext).regs = some greatestNext :=
  ⟨rfl, rfl, rfl⟩

theorem witness_Rand1MapsTheFraction : State.reset.regs = none ∧
    (holding false greatestNext).regs = some greatestNext := ⟨rfl, rfl⟩

theorem witness_Rand2MapsTheFraction : State.reset.regs = none ∧ (holding true golden).regs = some golden ∧
    (holding true golden).hardenedRange = true ∧ flt 0x4000000000000000 0x4014000000000000 = true ∧
    flt 0x4000000000000000 0x4000000000000000 = false ∧ (holding false golden).hardenedRange = false := by
  decide +kernel

theorem witness_InvalidRangeExactlyWhenHardenedAndReversed :
    exec (.rand2 0x4014000000000000 0x4000000000000000) (holding true golden) =
      .next ((holding true golden).answer (.raised .invalidRange) 0) ∧
    (holding true golden).regs = some golden ∧ isNaN 0x7FF8000000000000 = true := by
  refine ⟨?_, rfl, by decide +kernel⟩
  have hc : rangeRejected (holding true golden) 0x4014000000000000 0x4000000000000000 = true := by decide +kernel
  show execRand2 _ _ _ = _
  rw [execRand2, whenSeeded_some (r := golden) rfl, hc]
  rfl

theorem witness_DumpReadsTheRegisters : State.reset.regs = none ∧ (holding true golden).regs = some golden :=
  ⟨rfl, rfl⟩

theorem witness_Rand1AnswersAnIntegerInRange :
    (holding false greatestNext).regs = some greatestNext ∧ HasIntValue 0x3FF0000000000000 (1 : Nat) ∧
    HasIntValue 0x4330000000000000 (2 ^ 52 : Nat) ∧ drawnBits greatestNext = 2 ^ 52 - 1 ∧
    drawnBits leastNext = 0 := by
  refine ⟨rfl, ⟨?_, ?_⟩, ⟨?_, ?_⟩, ?_, ?_⟩ <;> decide +kernel

theorem witness_Rand2AnswersAnIntegerInRange :
    HasIntValue 0x3FF0000000000000 1 ∧ HasIntValue 0x4330000000000000 (2 ^ 52) ∧
    (2 ^ 52 - 1 + 1 : Int) ≤ 2 ^ 52 ∧ |(2 ^ 52 : Int)| ≤ 2 ^ 52 ∧ HasIntValue 0xC330000000000000 (-2 ^ 52) := by
  refine ⟨⟨?_, ?_⟩, ⟨?_, ?_⟩, ?_, ?_, ⟨?_, ?_⟩⟩ <;> decide +kernel

theorem witness_UnhardenedRand2WithReversedBounds :
    (holding false golden).hardenedRange = false ∧ HasIntValue 0x4014000000000000 5 ∧
    HasIntValue 0x4008000000000000 3 ∧ (3 : Int) < 5 - 1 ∧ |(3 - 5 + 1 : Int)| ≤ 2 ^ 52 := by
  refine ⟨rfl, ⟨?_, ?_⟩, ⟨?_, ?_⟩, ?_, ?_⟩ <;> decide +kernel

theorem witness_Rand1NonFiniteResults : 2 ^ 52 - 1 < 2 ^ 52 ∧ isNaN 0x7FF0000000000001 = true ∧
    (0x7FF0000000000000 : Word) = infinity false ∧ isFinite 0x7FEFFFFFFFFFFFFF = true := by decide +kernel

theorem witness_Rand2NonFiniteResults : 2 ^ 52 - 1 < 2 ^ 52 ∧ isNaN 0x7FF0000000000001 = true ∧
    (0xFFF0000000000000 : Word) = infinity true ∧ isFinite 0xFFEFFFFFFFFFFFFF = true ∧
    fsub 0x7FEFFFFFFFFFFFFF 0xFFEFFFFFFFFFFFFF = some (infinity false) := by decide +kernel

theorem witness_SingleValuedBounds : isFinite one64 = true ∧ signBit one64 = false ∧ magnitude one64 = 2 ^ 1074 ∧
    magnitude 0x8000000000000000 = 0 ∧ magnitude 0x8000000000000001 ≠ 0 := by decide +kernel

theorem witness_UnseededOperationsAnswerNotSeeded : State.reset.regs = none ∧
    (holding false golden).seeded = true ∧ exec (.ill 0 0) (holding false golden) =
      .next ((holding false golden).answer (.raised .illegalOp) 0) := ⟨rfl, rfl, rfl⟩

theorem witness_RenderingIsMostSignificantFirst : 7 < 8 ∧ 9 * 7 + 7 = 70 ∧ 0 < 1 := by decide

/-- Two states from the same registers, one to draw a fraction and one a die roll. -/
theorem witness_BoundsNeverReachTheRegisters :
    let p : List Instr := [.frac 0 0]
    let q : List Instr := [.rand1 0x4018000000000000 0]
    let s : State := { holding false golden with host := p.map (fun i => .command (encode i)) }
    let s' : State := { holding true golden with host := q.map (fun i => .command (encode i)) }
    p.length = q.length ∧ s.regs = s'.regs ∧ (∀ i ∈ p, drawsUnder s.hardenedRange i = true) ∧
    (∀ i ∈ q, drawsUnder s'.hardenedRange i = true) ∧ answersNext (Host.Core.run Sys2Proof.core p.length s) = true ∧
    answersNext (Host.Core.run Sys2Proof.core q.length s') = true := by
  refine ⟨rfl, rfl, ?_, ?_, ?_, ?_⟩
  · intro i hi
    cases List.mem_singleton.1 hi
    rfl
  · intro i hi
    cases List.mem_singleton.1 hi
    rfl
  · decide +kernel
  · decide +kernel

theorem witness_EqualSeedsGiveEqualStreams :
    let events : List HostEvent := [.command (encode (.rand1 0x7FF8000000000000 0))]
    let s : State := { State.reset with host := .command (encode (.seed 0 0)) :: events }
    let s' : State := { holding false golden with host := s.host }
    isFinite 0 = true ∧ s.hardenedRange = s'.hardenedRange ∧ (s.host.take 2).getLast? = events.head? ∧
    answersNext (Host.Core.run Sys2Proof.core 2 s) = true ∧ answersNext (Host.Core.run Sys2Proof.core 2 s') = true := by
  refine ⟨?_, rfl, rfl, ?_, ?_⟩ <;> decide +kernel

end Sys2Proof.Tests
end

section
/-! PROOFS. Numerics without NaN: from an operand that is no NaN the recurrence of the seeder never yields one (R99,
R111), and a fraction never is one (R143). So the drawn pattern is never taken there (assumption log 11). -/

namespace Sys2Proof.Machine

@[simp] theorem isNaN_infinity (s : Bool) : isNaN (infinity s) = false := by simp [isNaN, infinity]

@[simp] theorem isNaN_zero (s : Bool) : isNaN (zero s) = false := by simp [isNaN, zero]

theorem isNaN_of_isFinite {p : Word} (h : isFinite p = true) : isNaN p = false := by
  simp only [isFinite, bne_iff_ne] at h
  simp [isNaN, h]

/-- A rounding never gives a NaN (R83). -/
@[simp] theorem isNaN_rne (sign : Bool) (num den : Nat) : isNaN (rne sign num den) = false := by
  obtain h | ⟨e, f, he, h⟩ := rne_cases sign num den
  · rw [h, isNaN_infinity]
  · refine isNaN_of_isFinite ?_
    rw [h, isFinite, expField_pattern, bne_iff_ne]
    omega

/-- A pattern that is no NaN is an infinity or a finite datum (R81). -/
theorem classify_of_not_isNaN {p : Word} (h : isNaN p = false) :
    (∃ s, classify p = .inf s) ∨ ∃ s m, classify p = .fin s m := by
  by_cases hf : isFinite p = true
  · exact .inr ⟨_, _, classify_of_isFinite hf⟩
  · exact .inl ⟨signBit p, by simp [classify, hf, h]⟩

/-- A product with a finite non-zero factor is a NaN only where the other factor is (R84). -/
theorem fmul_of_not_isNaN {a b : Word} (ha : isNaN a = false) (hb : isFinite b = true) (hb0 : magnitude b ≠ 0) :
    ∃ p, fmul a b = some p ∧ isNaN p = false := by
  obtain ⟨s, hs⟩ | ⟨s, m, hs⟩ := classify_of_not_isNaN ha
  · simp [fmul, hs, classify_of_isFinite hb, hb0]
  · by_cases hm : m = 0
    · simp [fmul, hs, classify_of_isFinite hb, hm]
    · simp only [fmul, hs, classify_of_isFinite hb, hm, hb0, or_self, if_false, Option.some.injEq,
        exists_eq_left', isNaN_rne]

/-- A sum with a finite summand is a NaN only where the other summand is (R85). -/
theorem fadd_of_not_isNaN {a b : Word} (ha : isNaN a = false) (hb : isFinite b = true) :
    ∃ p, fadd a b = some p ∧ isNaN p = false := by
  obtain ⟨s, hs⟩ | ⟨s, m, hs⟩ := classify_of_not_isNaN ha
  · simp [fadd, hs, classify_of_isFinite hb]
  · by_cases hx : signed s m + signed (signBit b) (magnitude b) = 0
    · simp [fadd, hs, classify_of_isFinite hb, hx]
    · simp only [fadd, hs, classify_of_isFinite hb, if_neg hx, Option.some.injEq, exists_eq_left', isNaN_rne]

/-- The recurrence yields NaN from a NaN only (R99). -/
theorem recurrence_of_not_isNaN {d : Word} (h : isNaN d = false) :
    ∃ d', recurrence d = some d' ∧ isNaN d' = false := by
  have hpi : isFinite pi64 = true ∧ magnitude pi64 ≠ 0 := by decide +kernel
  have he : isFinite e64 = true := by decide +kernel
  obtain ⟨p, hp, hpn⟩ := fmul_of_not_isNaN h hpi.1 hpi.2
  obtain ⟨d', hd, hdn⟩ := fadd_of_not_isNaN hpn he
  exact ⟨d', by rw [recurrence, hp, Option.bind_some, hd], hdn⟩

/-- The registers derived from a finite seed do not depend on the drawn pattern (R111). -/
theorem deriveRegs_draw_irrelevant {a : Word} (ha : isFinite a = true) (draw draw' : Word) :
    deriveRegs draw a = deriveRegs draw' a := by
  obtain ⟨d0, h0, n0⟩ := recurrence_of_not_isNaN (isNaN_of_isFinite ha)
  obtain ⟨d1, h1, n1⟩ := recurrence_of_not_isNaN n0
  obtain ⟨d2, h2, n2⟩ := recurrence_of_not_isNaN n1
  obtain ⟨d3, h3, -⟩ := recurrence_of_not_isNaN n2
  simp only [deriveRegs, h0, h1, h2, h3, settle_some]

/-- The pattern the fraction is taken from has the exponent of [1, 2) (R141). -/
theorem expField_mantissaPattern (c : Word) : expField (mantissaPattern c) = 1023 := by
  have h : (mantissaPattern c).extractLsb' 52 11 = 1023#11 := by
    ext i hi
    interval_cases i <;> simp [mantissaPattern, mant52, one64]
  rw [expField, h]
  rfl

/-- The fraction of a word does not depend on the drawn pattern (R143). -/
theorem fractionOf_draw_irrelevant (c draw draw' : Word) : fractionOf draw c = fractionOf draw' c := by
  have hc : isFinite (mantissaPattern c) = true := by simp [isFinite, expField_mantissaPattern]
  obtain ⟨f, hf, -⟩ := fadd_of_not_isNaN (b := negate one64) (isNaN_of_isFinite hc) (by decide +kernel)
  simp only [fractionOf, fsub, hf, settle_some]

theorem fraction_draw_irrelevant (draw draw' : Word) (r : Regs) : fraction draw r = fraction draw' r :=
  Prod.ext (fractionOf_draw_irrelevant _ draw draw') rfl

end Sys2Proof.Machine
end

section
/-! PROOFS. The record of an instruction decodes to it (R60, R61). -/

namespace Sys2Proof

@[simp] theorem opField_encode (i : Instr) : opField (encode i) = opcode i := (Laws.opcodeField_all i).2

@[simp] theorem fieldA_encode (i : Instr) : fieldA (encode i) = operandA i := by
  apply BitVec.eq_of_toNat_eq
  have := (operandA i).isLt
  have := (operandB i).isLt
  rw [fieldA_toNat, encode_toNat]
  omega

@[simp] theorem fieldB_encode (i : Instr) : fieldB (encode i) = operandB i := by
  apply BitVec.eq_of_toNat_eq
  have := (operandB i).isLt
  rw [fieldB_toNat, encode_toNat]
  omega

@[simp] theorem decode_encode (i : Instr) : decode (encode i) = i := by
  cases i <;> simp [decode, opcode, operandA, operandB]

end Sys2Proof
end

section
/-! PROOFS. What a command leaves unchanged, what a drawing command does to the registers, and a run taken apart at its
first step. -/

namespace Sys2Proof.Machine

/-- No command writes the strap or the list of the host's events (R25; assumption log 4). -/
theorem exec_frame {i : Instr} {s t : State} (h : exec i s = .next t) :
    t.hardenedRange = s.hardenedRange ∧ t.host = s.host := by
  obtain ⟨c, rfl⟩ | ⟨a, b, -, -, rfl⟩ | ⟨r, v, -, rfl | rfl⟩ | ⟨a, b, r, -, -, rfl⟩ := exec_next_cases h <;>
    exact ⟨rfl, rfl⟩

/-- An operation that advances the registers it is given advances those of the block, where there are any (R183). -/
theorem whenSeeded_regs_of_advances {s t : State} {op : Regs → Result}
    (hop : ∀ r, op r = .next t → t.regs = some (advance r).2) (h : whenSeeded s op = .next t) :
    t.regs = s.regs.map fun r => (advance r).2 := by
  obtain ⟨hr, rfl⟩ | ⟨r, hr, h⟩ := whenSeeded_next h
  · rw [State.answer_regs, hr, Option.map_none]
  · rw [hop r h, hr, Option.map_some]

/-- A drawing command advances the registers one step, where there are any, whatever its bounds (R159, R215). -/
theorem exec_regs_of_drawsUnder {i : Instr} {s t : State} (h : exec i s = .next t)
    (hi : drawsUnder s.hardenedRange i = true) : t.regs = s.regs.map fun r => (advance r).2 := by
  cases i with
  | seed a b => cases hi
  | step a b => exact whenSeeded_regs_of_advances (fun r h => by rw [respondOk_next h]; rfl) h
  | frac a b => exact whenSeeded_regs_of_advances (fun r h => by rw [respondOk_next h]; rfl) h
  | rand0 a b => exact whenSeeded_regs_of_advances (fun r h => by rw [respondOk_next h]; rfl) h
  | rand1 m b => exact whenSeeded_regs_of_advances (fun r h => by rw [respondMapped_next h]; rfl) h
  | rand2 m n =>
    have hc : rangeRejected s m n = false := by
      simpa only [drawsUnder, rangeRejected, Bool.not_eq_true'] using hi
    refine whenSeeded_regs_of_advances (fun r h => ?_) h
    rw [hc, if_neg Bool.false_ne_true] at h
    rw [respondMapped_next h]
    rfl
  | dump a b => cases hi
  | ill a b => cases hi

/-- The step on a command presented is the command decoded, on the state without it (R48, R60). -/
theorem step_command {s : State} {w : CommandRecord} {rest : List HostEvent} (h : s.host = .command w :: rest) :
    step s = exec (decode w) { s with host := rest } := by
  simp only [step, State.arrival, h]

theorem step_reset {s : State} {rest : List HostEvent} (h : s.host = .reset :: rest) :
    step s = .next (State.applyReset { s with host := rest }) := by
  simp only [step, State.arrival, h]

theorem step_idle {s : State} (h : s.host = []) : step s = .next s := by
  simp only [step, State.arrival, h]

/-- A step takes the first event, where there is one (assumption log 4). -/
theorem step_host {s t : State} (h : step s = .next t) : t.host = s.host.tail := by
  obtain ⟨hh, rfl⟩ | ⟨rest, hh, rfl⟩ | ⟨w, rest, hh, h⟩ := step_next_cases h
  · rw [hh, List.tail_nil]
  · rw [hh, State.applyReset_host, List.tail_cons]
  · rw [hh, (exec_frame h).2, List.tail_cons]

/-- A run of `k + 1` steps that ends in a state is one step and a run of `k` steps, for any machine. -/
theorem machine_run_succ_next {M : Host.Core} {k : Nat} {s t : M.State} (h : M.run (k + 1) s = .next t) :
    ∃ u, M.step s = .next u ∧ M.run k u = .next t := by
  rw [Host.Core.run] at h
  cases hs : M.step s with
  | next u => exact ⟨u, rfl, by rwa [hs] at h⟩
  | fault r => rw [hs] at h; cases h
  | refused r => rw [hs] at h; cases h

theorem run_succ_next {k : Nat} {s t : State} (h : Host.Core.run Sys2Proof.core (k + 1) s = .next t) :
    ∃ u, step s = .next u ∧ Host.Core.run Sys2Proof.core k u = .next t :=
  machine_run_succ_next h

/-- A run of drawing commands advances the registers by their number and by nothing else (R3, R159). -/
theorem run_regs_of_drawsUnder (p : List Instr) {s t : State} (hp : ∀ i ∈ p, drawsUnder s.hardenedRange i = true)
    (hh : s.host = p.map fun i => .command (encode i)) (h : Host.Core.run Sys2Proof.core p.length s = .next t) :
    t.regs = (Option.map fun r => (advance r).2)^[p.length] s.regs := by
  induction p generalizing s with
  | nil => cases h; rfl
  | cons i p ih =>
    obtain ⟨u, hu, ht⟩ := run_succ_next h
    rw [step_command hh, decode_encode] at hu
    obtain ⟨hstrap, hhost⟩ := exec_frame hu
    have hregs := exec_regs_of_drawsUnder hu (hp i List.mem_cons_self)
    rw [ih (fun j hj => hstrap ▸ hp j (List.mem_cons_of_mem i hj)) hhost ht, hregs]
    rfl

/-- Settles O54: both runs advance the same registers by the same number of steps. -/
theorem boundsNeverReachTheRegisters : Obligations.BoundsNeverReachTheRegisters := by
  intro p q s s' t t' hlen hregs hp hq hhost hhost' ht ht'
  rw [run_regs_of_drawsUnder p hp hhost ht, run_regs_of_drawsUnder q hq hhost' ht', hlen, hregs]

end Sys2Proof.Machine
end

section
/-! PROOFS. Two blocks with the same registers, strap and events stay so over every step and answer alike, the
patterns of NaN results aside (R9). -/

namespace Sys2Proof.Machine

/-- What the next answers of two blocks may depend on is the same in both: everything but the response on the port and
the count of NaN patterns drawn. -/
structure Alike (s s' : State) : Prop where
  regs : s.regs = s'.regs
  hardenedRange : s.hardenedRange = s'.hardenedRange
  host : s.host = s'.host

/-- The states after one event in each of two blocks: alike, and with the same answer to the event. -/
def AlikeAfter (e : HostEvent) (t t' : State) : Prop := Alike t t' ∧ SameAnswer (some e) t.response t'.response

variable {s s' t t' : State}

theorem Alike.writeRegs (h : Alike s s') (r : Regs) : Alike (s.writeRegs r) (s'.writeRegs r) :=
  ⟨rfl, h.hardenedRange, h.host⟩

theorem Alike.answer (h : Alike s s') (e : HostEvent) (st : Status) (p : Payload) :
    AlikeAfter e (s.answer st p) (s'.answer st p) :=
  ⟨⟨h.regs, h.hardenedRange, h.host⟩, .inl rfl⟩

theorem raise_alike (hs : Alike s s') (e : HostEvent) {c : Condition} (h : raise c s = .next t)
    (h' : raise c s' = .next t') : AlikeAfter e t t' := by
  rw [raise_next h, raise_next h']
  exact hs.answer e _ _

theorem respondOk_alike (hs : Alike s s') (e : HostEvent) {p : Payload} (h : respondOk p s = .next t)
    (h' : respondOk p s' = .next t') : AlikeAfter e t t' := by
  rw [respondOk_next h, respondOk_next h']
  exact hs.answer e _ _

/-- The same mapped value gives the same answer, or, where it is a NaN, two NaN patterns (R92, R158). -/
theorem respondMapped_alike (hs : Alike s s') {w : CommandRecord} (hw : takesBound (decode w) = true)
    {v : Option Word} (h : respondMapped v s = .next t) (h' : respondMapped v s' = .next t') :
    AlikeAfter (.command w) t t' := by
  rw [respondMapped_next h, respondMapped_next h']
  refine ⟨⟨hs.regs, hs.hardenedRange, hs.host⟩, ?_⟩
  cases v with
  | some v => exact .inl (by simp only [State.answer_response, settle_some])
  | none =>
    simp only [State.answer_response, settle_none]
    exact .inr ⟨w, _, _, rfl, hw, s.isNaN_nanDraw, s'.isNaN_nanDraw, rfl, rfl⟩

theorem whenSeeded_alike (hs : Alike s s') {e : HostEvent} {op op' : Regs → Result}
    (hop : ∀ r, op r = .next t → op' r = .next t' → AlikeAfter e t t') (h : whenSeeded s op = .next t)
    (h' : whenSeeded s' op' = .next t') : AlikeAfter e t t' := by
  cases hr : s.regs with
  | none =>
    rw [whenSeeded_none hr] at h
    rw [whenSeeded_none (hs.regs ▸ hr)] at h'
    exact raise_alike hs e h h'
  | some r =>
    rw [whenSeeded_some hr] at h
    rw [whenSeeded_some (hs.regs ▸ hr)] at h'
    exact hop r h h'

theorem rangeRejected_alike (hs : Alike s s') (m n : Word) : rangeRejected s m n = rangeRejected s' m n := by
  rw [rangeRejected, rangeRejected, hs.hardenedRange]

/-- A finite seed makes two blocks alike whatever they held before (R110). -/
theorem execSeed_alike_of_isFinite (hstrap : s.hardenedRange = s'.hardenedRange) (hhost : s.host = s'.host)
    {a : Word} (ha : isFinite a = true) (e : HostEvent) (h : execSeed a s = .next t)
    (h' : execSeed a s' = .next t') : AlikeAfter e t t' := by
  rw [execSeed, if_pos ha] at h h'
  rw [deriveRegs_draw_irrelevant ha s.nanDraw s'.nanDraw] at h
  have hs (r : Regs) : Alike (s.writeRegs r) (s'.writeRegs r) := ⟨rfl, hstrap, hhost⟩
  exact respondOk_alike (hs _) e h h'

theorem execSeed_alike (hs : Alike s s') (a : Word) (e : HostEvent) (h : execSeed a s = .next t)
    (h' : execSeed a s' = .next t') : AlikeAfter e t t' := by
  by_cases ha : isFinite a = true
  · exact execSeed_alike_of_isFinite hs.hardenedRange hs.host ha e h h'
  · rw [execSeed, if_neg ha] at h h'
    exact raise_alike hs e h h'

theorem execFrac_alike (hs : Alike s s') (e : HostEvent) (h : execFrac s = .next t)
    (h' : execFrac s' = .next t') : AlikeAfter e t t' := by
  refine whenSeeded_alike hs (fun r h h' => ?_) h h'
  rw [fraction_draw_irrelevant s.nanDraw s'.nanDraw] at h
  exact respondOk_alike (hs.writeRegs _) e h h'

/-- A command done by two alike blocks: only RAND1 and RAND2 can answer apart, and then with two NaN patterns (R9). -/
theorem exec_alike (hs : Alike s s') (w : CommandRecord) (h : exec (decode w) s = .next t)
    (h' : exec (decode w) s' = .next t') : AlikeAfter (.command w) t t' := by
  cases hw : decode w with
  | seed a b =>
    rw [hw] at h h'
    exact execSeed_alike hs a _ h h'
  | step a b =>
    rw [hw] at h h'
    exact whenSeeded_alike hs (fun r => respondOk_alike (hs.writeRegs _) _) h h'
  | frac a b =>
    rw [hw] at h h'
    exact execFrac_alike hs _ h h'
  | rand0 a b =>
    rw [hw] at h h'
    exact execFrac_alike hs _ h h'
  | rand1 m b =>
    rw [hw] at h h'
    refine whenSeeded_alike hs (fun r h h' => ?_) h h'
    rw [fraction_draw_irrelevant s.nanDraw s'.nanDraw] at h
    exact respondMapped_alike (hs.writeRegs _) (by rw [hw]; rfl) h h'
  | rand2 m n =>
    rw [hw] at h h'
    refine whenSeeded_alike hs (fun r h h' => ?_) h h'
    rw [rangeRejected_alike hs, fraction_draw_irrelevant s.nanDraw s'.nanDraw] at h
    by_cases hc : rangeRejected s' m n = true
    · rw [if_pos hc] at h h'
      exact raise_alike hs _ h h'
    · rw [if_neg hc] at h h'
      exact respondMapped_alike (hs.writeRegs _) (by rw [hw]; rfl) h h'
  | dump a b =>
    rw [hw] at h h'
    exact whenSeeded_alike hs (fun r => respondOk_alike hs _) h h'
  | ill a b =>
    rw [hw] at h h'
    exact raise_alike hs _ h h'

/-- An event taken by two alike blocks leaves them alike, with the same answer to it. -/
theorem step_alike (hs : Alike s s') {e : HostEvent} {rest : List HostEvent} (he : s.host = e :: rest)
    (h : step s = .next t) (h' : step s' = .next t') : AlikeAfter e t t' := by
  have he' : s'.host = e :: rest := hs.host ▸ he
  cases e with
  | reset =>
    rw [step_reset he] at h
    rw [step_reset he'] at h'
    cases h
    cases h'
    exact ⟨⟨rfl, hs.hardenedRange, rfl⟩, .inl rfl⟩
  | command w =>
    rw [step_command he] at h
    rw [step_command he'] at h'
    refine exec_alike ?_ w h h'
    exact ⟨hs.regs, hs.hardenedRange, rfl⟩

/-- Two alike blocks with the same answer to the event `last` on their ports are so after any number of steps, `last`
being then the last event they have taken, if they have taken any. -/
theorem run_alike (k : Nat) {last : Option HostEvent} (hs : Alike s s')
    (hl : SameAnswer last s.response s'.response) (h : Host.Core.run Sys2Proof.core k s = .next t)
    (h' : Host.Core.run Sys2Proof.core k s' = .next t') :
    Alike t t' ∧ SameAnswer ((s.host.take k).getLast?.or last) t.response t'.response := by
  induction k generalizing s s' last with
  | zero =>
    cases h
    cases h'
    exact ⟨hs, by simpa using hl⟩
  | succ k ih =>
    obtain ⟨u, hu, ht⟩ := run_succ_next h
    obtain ⟨u', hu', ht'⟩ := run_succ_next h'
    cases hh : s.host with
    | nil =>
      rw [step_idle hh] at hu
      rw [step_idle (hs.host ▸ hh)] at hu'
      cases hu
      cases hu'
      simpa [hh] using ih hs hl ht ht'
    | cons e rest =>
      obtain ⟨hsu, hlu⟩ := step_alike hs hh hu hu'
      have := ih hsu hlu ht ht'
      rw [step_host hu, hh] at this
      simpa [List.getLast?_cons, Option.or_some] using this

/-- Settles O55: the first step, the SEED, makes the two blocks alike, and every further step keeps them so. -/
theorem equalSeedsGiveEqualStreams : Obligations.EqualSeedsGiveEqualStreams := by
  intro a b events s s' t t' k ha hstrap hhost hhost' ht ht'
  obtain ⟨u, hu, ht⟩ := run_succ_next ht
  obtain ⟨u', hu', ht'⟩ := run_succ_next ht'
  have hrest := step_host hu
  rw [step_command hhost, decode_encode] at hu
  rw [step_command (hhost'.trans hhost), decode_encode] at hu'
  obtain ⟨hsu, hlu⟩ : AlikeAfter (.command (encode (.seed a b))) u u' := by
    refine execSeed_alike_of_isFinite ?_ ?_ ha _ hu hu'
    · exact hstrap
    · rfl
  obtain ⟨htt, hlt⟩ := run_alike k hsu hlu ht ht'
  rw [hrest, hhost] at hlt
  refine ⟨htt.regs, htt.host, ?_⟩
  rw [hhost]
  simpa [List.getLast?_cons, Option.or_some] using hlt

end Sys2Proof.Machine
end

section
/-! PROOFS. The slot update on live regions (R121, R130, R131): its bits, that it reads no dead bit, and that the live
region it gives determines the live region it came from. -/

namespace Sys2Proof.Machine

/-- What the bitwise arguments need of the slot table (R67). -/
theorem slot_bounds (i : Fin 4) : 0 < (slot i).q ∧ (slot i).q + (slot i).s ≤ (slot i).k ∧ (slot i).k ≤ 63 ∧
    64 + (slot i).s + (slot i).q ≤ 2 * (slot i).k := by
  fin_cases i <;> decide

theorem getLsbD_shl64 (v : Word) (n : Nat) {t : Nat} (ht : t < 64) :
    (shl64 v n).getLsbD t = (decide (n ≤ t) && v.getLsbD (t - n)) := by
  rw [shl64, BitVec.getLsbD_shiftLeft]
  by_cases hn : n ≤ t <;> simp [hn, ht]

theorem getLsbD_shr64 (v : Word) (n t : Nat) : (shr64 v n).getLsbD t = v.getLsbD (n + t) :=
  BitVec.getLsbD_ushiftRight ..

theorem getLsbD_allOnes_of_lt {t : Nat} (ht : t < 64) : allOnes.getLsbD t = true :=
  (BitVec.getLsbD_allOnes (v := 64)).trans (decide_eq_true ht)

/-- The first term of the slot update, `((z << q) ^ z) >> (k - s)`, bit by bit (R121). -/
theorem getLsbD_gen_lowTerm {k q s t : Nat} (z : Word) (hqs : q + s ≤ k) (hk : k ≤ 63) :
    (shr64 (shl64 z q ^^^ z) (k - s)).getLsbD t =
      if t ≤ 63 - k + s then (z.getLsbD (t + k - s) ^^ z.getLsbD (t + k - s - q)) else false := by
  have hu : k - s + t = t + k - s := by omega
  rw [getLsbD_shr64, hu]
  split
  · rw [BitVec.getLsbD_xor, getLsbD_shl64 _ _ (by omega), decide_eq_true (by omega : q ≤ t + k - s), Bool.true_and,
      Bool.xor_comm]
  · exact BitVec.getLsbD_of_ge _ _ (by omega)

/-- The second term of the slot update, the live region shifted up by `s`, bit by bit (R121). -/
theorem getLsbD_gen_highTerm {k s t : Nat} (z : Word) (hk : k ≤ 63) (ht : t < 64) :
    (shl64 (z &&& shl64 allOnes (64 - k)) s).getLsbD t =
      if t ≤ 63 - k + s then false else z.getLsbD (t - s) := by
  rw [getLsbD_shl64 _ _ ht, BitVec.getLsbD_and, getLsbD_shl64 _ _ (by omega), getLsbD_allOnes_of_lt (by omega)]
  split
  · by_cases hs : s ≤ t
    · have hdead : ¬ 64 - k ≤ t - s := by omega
      simp [hdead]
    · simp [hs]
  · have hs : s ≤ t := by omega
    have hlive : 64 - k ≤ t - s := by omega
    simp [hs, hlive]

/-- A bit of the slot update: its two terms occupy disjoint bits (R121). -/
theorem getLsbD_gen (i : Fin 4) (z : Word) {t : Nat} (ht : t < 64) :
    (gen (slot i) z).getLsbD t =
      if t ≤ 63 - (slot i).k + (slot i).s then
        (z.getLsbD (t + (slot i).k - (slot i).s) ^^ z.getLsbD (t + (slot i).k - (slot i).s - (slot i).q))
      else z.getLsbD (t - (slot i).s) := by
  obtain ⟨-, hqs, hk, -⟩ := slot_bounds i
  rw [gen, BitVec.getLsbD_xor, getLsbD_gen_lowTerm z hqs hk, getLsbD_gen_highTerm z hk ht]
  split
  · exact Bool.xor_false _
  · exact Bool.false_xor _

@[simp] theorem gen_zero (i : Fin 4) : gen (slot i) 0 = 0 := by
  fin_cases i <;> decide

@[simp] theorem liveRegion_zero (i : Fin 4) : liveRegion i 0 = 0 := Nat.zero_div _

/-- Two words have the same live region where they agree from bit `64 - k` up (R30). -/
theorem liveRegion_eq_iff {i : Fin 4} {y z : Word} :
    liveRegion i y = liveRegion i z ↔ ∀ t, 64 - (slot i).k ≤ t → y.getLsbD t = z.getLsbD t := by
  constructor
  · intro h t ht
    have hbit := congrArg (fun n => n.testBit (t - (64 - (slot i).k))) h
    simp only [liveRegion, Nat.testBit_div_two_pow, Nat.sub_add_cancel ht] at hbit
    exact hbit
  · intro h
    refine Nat.eq_of_testBit_eq fun t => ?_
    simp only [liveRegion, Nat.testBit_div_two_pow]
    exact h _ (Nat.le_add_left _ _)

/-- A live region is not empty where the word reaches the mask of the slot (R30, R103). -/
theorem liveRegion_ne_zero_iff {i : Fin 4} {z : Word} :
    liveRegion i z ≠ 0 ↔ 2 ^ (64 - (slot i).k) ≤ z.toNat := by
  rw [liveRegion, Nat.div_ne_zero_iff]
  simp

/-- The slot update reads no dead bit (R31, R130). -/
theorem gen_congr_of_liveRegion_eq {i : Fin 4} {y z : Word} (h : liveRegion i y = liveRegion i z) :
    gen (slot i) y = gen (slot i) z := by
  obtain ⟨-, -, hk, h2k⟩ := slot_bounds i
  rw [liveRegion_eq_iff] at h
  refine BitVec.eq_of_getLsbD_eq fun t ht => ?_
  rw [getLsbD_gen i y ht, getLsbD_gen i z ht]
  split
  · rw [h _ (by omega), h _ (by omega)]
  · rw [h _ (by omega)]

/-- The live region after the slot update determines the one before it (R131): the update shifts the lower `k - s` live
bits up, and each bit `u` of the `s` bits above them comes back from `z[u] ^ z[u - q]`, from the lowest up. -/
theorem liveRegion_eq_of_gen {i : Fin 4} {y z : Word}
    (h : liveRegion i (gen (slot i) y) = liveRegion i (gen (slot i) z)) : liveRegion i y = liveRegion i z := by
  obtain ⟨hq, hqs, hk, -⟩ := slot_bounds i
  rw [liveRegion_eq_iff] at h ⊢
  intro u hu
  induction u using Nat.strong_induction_on with
  | _ u ih =>
    by_cases hu64 : 64 ≤ u
    · rw [BitVec.getLsbD_of_ge y u hu64, BitVec.getLsbD_of_ge z u hu64]
    by_cases hlow : u + (slot i).s < 64
    · have hbit := h (u + (slot i).s) (by omega)
      rwa [getLsbD_gen i y hlow, getLsbD_gen i z hlow, if_neg (by omega), if_neg (by omega),
        Nat.add_sub_cancel] at hbit
    · have hbit := h (u + (slot i).s - (slot i).k) (by omega)
      have hback : u + (slot i).s - (slot i).k + (slot i).k - (slot i).s = u := by omega
      rw [getLsbD_gen i y (by omega), getLsbD_gen i z (by omega), if_pos (by omega), if_pos (by omega), hback,
        ih (u - (slot i).q) (by omega) (by omega)] at hbit
      exact Bool.xor_left_inj.1 hbit

/-- The slot update keeps a non-empty live region non-empty (R30, R131). -/
theorem liveRegion_gen_ne_zero {i : Fin 4} {z : Word} (h : liveRegion i z ≠ 0) :
    liveRegion i (gen (slot i) z) ≠ 0 := by
  intro h0
  refine h ?_
  rw [← liveRegion_zero i]
  refine liveRegion_eq_of_gen ?_
  rw [h0, gen_zero, liveRegion_zero]

end Sys2Proof.Machine
end

section
/-! PROOFS. Live registers (R30): the guarded derivation of SEED gives them and a step keeps them; and a step reads no
dead bit of them (R31). -/

namespace Sys2Proof.Machine

theorem Regs.live_iff {r : Regs} : r.live = true ↔ ∀ i, liveRegion i (r.get i) ≠ 0 := by
  simp [Regs.live, slotOrder, Fin.forall_fin_succ]

theorem Regs.ne_zero_of_live {r : Regs} (h : r.live = true) : r ≠ ⟨0, 0, 0, 0⟩ := by
  rintro rfl
  exact Regs.live_iff.1 h 0 (liveRegion_zero 0)

/-- A step updates each register by its slot's formula (R120). -/
theorem advance_get (r : Regs) (i : Fin 4) : (advance r).2.get i = gen (slot i) (r.get i) := by
  rw [advance_eq]
  fin_cases i <;> rfl

theorem advance_live {r : Regs} (h : r.live = true) : (advance r).2.live = true := by
  rw [Regs.live_iff] at h ⊢
  intro i
  rw [advance_get]
  exact liveRegion_gen_ne_zero (h i)

theorem warmUp_live (n : Nat) {r : Regs} (h : r.live = true) : (warmUp n r).live = true := by
  induction n generalizing r with
  | zero => exact h
  | succ n ih => exact ih (advance_live h)

/-- The guard makes the live region of its slot non-empty (R106). -/
theorem liveRegion_guardWord_ne_zero (i : Fin 4) (u : Word) : liveRegion i (guardWord i u) ≠ 0 := by
  rw [liveRegion_ne_zero_iff, ← seedMask_toNat i, guardWord]
  split
  · next hlt =>
    have hmask : (seedMask i).toNat ≤ 2 ^ 17 := by fin_cases i <;> decide
    have hu : u.toNat < (seedMask i).toNat := by simpa [ult64, BitVec.ult] using hlt
    rw [add64, BitVec.toNat_add, Nat.mod_eq_of_lt (by omega)]
    exact Nat.le_add_left _ _
  · next hge => simpa [ult64, BitVec.ult] using hge

theorem deriveRegs_live (draw a : Word) : (deriveRegs draw a).live = true := by
  rw [Regs.live_iff]
  intro i
  fin_cases i <;> exact liveRegion_guardWord_ne_zero _ _

/-- A step reads no dead bit: register files with the same live regions give the same word and the same registers
(R31). -/
theorem advance_congr_of_sameLiveRegions {r r' : Regs} (h : SameLiveRegions r r') : advance r = advance r' := by
  have hgen (i : Fin 4) : gen (slot i) (r.get i) = gen (slot i) (r'.get i) := gen_congr_of_liveRegion_eq (h i)
  rw [advance_eq, advance_eq]
  simp only [← Regs.get_zero, ← Regs.get_one, ← Regs.get_two, ← Regs.get_three, hgen]

theorem fraction_congr_of_sameLiveRegions (draw : Word) {r r' : Regs} (h : SameLiveRegions r r') :
    fraction draw r = fraction draw r' := by
  rw [fraction, fraction, advance_congr_of_sameLiveRegions h]

theorem SameLiveRegions.refl (r : Regs) : SameLiveRegions r r := fun _ => rfl

end Sys2Proof.Machine
end

section
/-! PROOFS. The state of the block over commands, steps and runs: who sets `seeded` (R22), the strap (R25), and the
invariant of live registers and a sound port (R30, R32, R63). -/

namespace Sys2Proof.Machine

/-- Settles O7: the reset state is written out with no registers and an idle port. -/
theorem resetStateHoldsNoGenerator : Obligations.ResetStateHoldsNoGenerator := ⟨rfl, rfl, rfl⟩

/-- Settles O10: a reset keeps the strap, and no command writes it. -/
theorem strapNeverChanges : Obligations.StrapNeverChanges := by
  intro s t h
  obtain ⟨-, rfl⟩ | ⟨rest, -, rfl⟩ | ⟨w, rest, -, h⟩ := step_next_cases h
  · rfl
  · rfl
  · exact (exec_frame h).1

/-- A command that leaves the block seeded found it so, or is a SEED that completes (R22). -/
theorem exec_seeded_cases {i : Instr} {s t : State} (h : exec i s = .next t) (ht : t.seeded = true) :
    s.seeded = true ∨ ∃ a b, i = .seed a b ∧ isFinite a = true := by
  obtain ⟨c, rfl⟩ | ⟨a, b, hi, ha, rfl⟩ | ⟨r, v, hr, -⟩ | ⟨a, b, r, -, hr, -⟩ := exec_next_cases h
  · exact .inl ht
  · exact .inr ⟨a, b, hi, ha⟩
  · exact .inl (s.seeded_iff.2 ⟨r, hr⟩)
  · exact .inl (s.seeded_iff.2 ⟨r, hr⟩)

/-- No command clears `seeded` (R22). -/
theorem exec_keeps_seeded {i : Instr} {s t : State} (h : exec i s = .next t) (hs : s.seeded = true) :
    t.seeded = true := by
  obtain ⟨c, rfl⟩ | ⟨a, b, -, -, rfl⟩ | ⟨r, v, -, rfl | rfl⟩ | ⟨a, b, r, -, -, rfl⟩ := exec_next_cases h
  · exact hs
  · rfl
  · rfl
  · rfl
  · exact hs

/-- A SEED that completes sets `seeded` (R109). -/
theorem execSeed_seeded_of_isFinite {a : Word} {s t : State} (ha : isFinite a = true)
    (h : execSeed a s = .next t) : t.seeded = true := by
  rw [execSeed, if_pos ha] at h
  rw [respondOk_next h]
  rfl

/-- Settles O14: every command keeps a set flag, and of an unset one only SEED writes the registers. -/
theorem commandsOnlyEverSetSeeded : Obligations.CommandsOnlyEverSetSeeded := by
  intro i s t h
  refine ⟨exec_seeded_cases h, ?_⟩
  rintro (hs | ⟨a, b, rfl, ha⟩)
  · exact exec_keeps_seeded h hs
  · exact execSeed_seeded_of_isFinite ha h

theorem State.live_iff {s : State} : s.live = true ↔ ∀ r, s.regs = some r → r.live = true := by
  cases h : s.regs <;> simp [State.live, h]

theorem State.portSound_iff {s : State} :
    s.portSound = true ↔ ∀ rsp, s.response = some rsp → rsp.faultsEmpty = true := by
  cases h : s.response <;> simp [State.portSound, h]

theorem State.sound_iff {s : State} : s.sound = true ↔ s.live = true ∧ s.portSound = true := Bool.and_eq_true_iff

/-- With no registers and an idle port there is nothing to keep. -/
theorem State.sound_of_none {s : State} (hregs : s.regs = none) (hresponse : s.response = none) :
    s.sound = true := by
  simp [State.sound, State.live, State.portSound, hregs, hresponse]

/-- A command leaves live registers live: SEED makes them so, a step keeps them so (R30). -/
theorem exec_keeps_live {i : Instr} {s t : State} (hs : s.live = true) (h : exec i s = .next t) :
    t.live = true := by
  obtain ⟨c, rfl⟩ | ⟨a, b, -, -, rfl⟩ | ⟨r, v, hr, rfl | rfl⟩ | ⟨a, b, r, -, -, rfl⟩ := exec_next_cases h
  · exact hs
  · exact warmUp_live warmUpSteps (deriveRegs_live _ _)
  · exact advance_live (State.live_iff.1 hs r hr)
  · exact advance_live (State.live_iff.1 hs r hr)
  · exact hs

/-- The answer to a command has the form of R63, whatever stood on the port before it. -/
theorem exec_portSound {i : Instr} {s t : State} (h : exec i s = .next t) : t.portSound = true := by
  obtain ⟨c, rfl⟩ | ⟨a, b, -, -, rfl⟩ | ⟨r, v, -, rfl | rfl⟩ | ⟨a, b, r, -, -, rfl⟩ := exec_next_cases h <;> rfl

theorem step_keeps_sound {s t : State} (hs : s.sound = true) (h : step s = .next t) : t.sound = true := by
  obtain ⟨-, rfl⟩ | ⟨rest, -, rfl⟩ | ⟨w, rest, -, h⟩ := step_next_cases h
  · exact hs
  · exact State.sound_of_none rfl rfl
  · have hlive : State.live { s with host := rest } = true := (State.sound_iff.1 hs).1
    exact State.sound_iff.2 ⟨exec_keeps_live hlive h, exec_portSound h⟩

/-- Settles O15: a command keeps the registers live and answers in the form of R63; a reset empties both. -/
theorem everyStepKeepsTheBlockSound : Obligations.EveryStepKeepsTheBlockSound := fun _ _ => step_keeps_sound

/-- Settles O16: the block holds no registers and no response to be sound about. -/
theorem resetStateIsSound : Obligations.ResetStateIsSound := State.sound_of_none rfl rfl

/-- What every step keeps, a run keeps. -/
theorem run_keeps {P : State → Prop} (hstep : ∀ s t, P s → step s = .next t → P t) (k : Nat) {s t : State}
    (hs : P s) (h : Host.Core.run Sys2Proof.core k s = .next t) : P t := by
  induction k generalizing s with
  | zero =>
    cases h
    exact hs
  | succ k ih =>
    obtain ⟨u, hu, ht⟩ := run_succ_next h
    exact ih (hstep s u hs hu) ht

/-- Settles O17: the state after reset is sound, every step keeps it so, and live registers are not degenerate. -/
theorem degenerateRegistersNeverArise : Obligations.DegenerateRegistersNeverArise := by
  intro hardened events k t r h hr
  have hsound : t.sound = true :=
    run_keeps (P := fun s => s.sound = true) everyStepKeepsTheBlockSound k (State.sound_of_none rfl rfl) h
  have hlive : r.live = true := State.live_iff.1 (State.sound_iff.1 hsound).1 r hr
  exact ⟨fun i => liveRegion_ne_zero_iff.1 (Regs.live_iff.1 hlive i), Regs.ne_zero_of_live hlive⟩

end Sys2Proof.Machine
end

section
/-! PROOFS. Dead bits (R31): an operation that takes a step reads the registers through the step alone; one that takes
none keeps the registers it finds, or replaces them. -/

namespace Sys2Proof.Machine

/-- What an operation that takes a step answers is a function of the step's word and registers (R140, R150, R159). -/
theorem exec_eq_of_advance {i : Instr} {s : State} (hi : drawsUnder s.hardenedRange i = true) :
    ∃ out : Word × Regs → State, (∀ c r', (out (c, r')).regs = some r') ∧
      ∀ r, exec i { s with regs := some r } = .next (out (advance r)) := by
  cases i with
  | seed a b => cases hi
  | step a b =>
    exact ⟨fun x => (s.writeRegs x.2).answer .ok (zext256 x.1), fun _ _ => rfl, fun _ => rfl⟩
  | frac a b =>
    exact ⟨fun x => (s.writeRegs x.2).answer .ok (zext256 (fractionOf s.nanDraw x.1)), fun _ _ => rfl, fun _ => rfl⟩
  | rand0 a b =>
    exact ⟨fun x => (s.writeRegs x.2).answer .ok (zext256 (fractionOf s.nanDraw x.1)), fun _ _ => rfl, fun _ => rfl⟩
  | rand1 m b =>
    exact ⟨fun x => (s.writeRegs x.2).spendDraw.answer .ok
      (zext256 (settle s.nanDraw (map1 (fractionOf s.nanDraw x.1) m))), fun _ _ => rfl, fun _ => rfl⟩
  | rand2 m n =>
    have hc (r : Regs) : rangeRejected { s with regs := some r } m n = false := by
      simpa only [drawsUnder, rangeRejected, Bool.not_eq_true'] using hi
    exact ⟨fun x => (s.writeRegs x.2).spendDraw.answer .ok
      (zext256 (settle s.nanDraw (map2 (fractionOf s.nanDraw x.1) m n))), fun _ _ => rfl,
      fun r => if_neg (Bool.eq_false_iff.1 (hc r))⟩
  | dump a b => cases hi
  | ill a b => cases hi

/-- An operation that takes no step, DUMP aside, answers alike whatever the registers hold: SEED replaces them, and a
condition leaves them as they are (R109, R187). -/
theorem exec_eq_of_not_drawsUnder {i : Instr} {s : State} (hi : drawsUnder s.hardenedRange i = false)
    (hdump : ∀ a b, i ≠ .dump a b) :
    ∃ (t : State) (f : Regs → Regs), (f = id ∨ ∃ p, f = fun _ => p) ∧
      ∀ r, exec i { s with regs := some r } = .next { t with regs := some (f r) } := by
  cases i with
  | seed a b =>
    by_cases ha : isFinite a = true
    · exact ⟨s.answer .ok 0, fun _ => warmUp warmUpSteps (deriveRegs s.nanDraw a), .inr ⟨_, rfl⟩,
        fun _ => if_pos ha⟩
    · exact ⟨s.answer (.raised .invalidSeed) 0, id, .inl rfl, fun _ => if_neg ha⟩
  | step a b => cases hi
  | frac a b => cases hi
  | rand0 a b => cases hi
  | rand1 m b => cases hi
  | rand2 m n =>
    have hc (r : Regs) : rangeRejected { s with regs := some r } m n = true := by
      simpa [drawsUnder, rangeRejected] using hi
    exact ⟨s.answer (.raised .invalidRange) 0, id, .inl rfl, fun r => if_pos (hc r)⟩
  | dump a b => exact absurd rfl (hdump a b)
  | ill a b => exact ⟨s.answer (.raised .illegalOp) 0, id, .inl rfl, fun _ => rfl⟩

/-- Settles O36: a step reads no dead bit, and an operation that takes no step reads no register. -/
theorem deadBitsInfluenceNothing : Obligations.DeadBitsInfluenceNothing := by
  intro i s r r' h
  cases hi : drawsUnder s.hardenedRange i with
  | true =>
    obtain ⟨out, hout, hexec⟩ := exec_eq_of_advance hi
    have hsame : exec i { s with regs := some r } = exec i { s with regs := some r' } := by
      rw [hexec, hexec, advance_congr_of_sameLiveRegions h]
    have hregs : out (advance r) = { out (advance r) with regs := some (advance r).2 } := by
      rw [← hout (advance r).1 (advance r).2]
    have hnext := (hexec r).trans (congrArg _ hregs)
    exact ⟨fun _ => hsame, fun _ => ⟨_, _, _, hnext, hsame.symm.trans hnext, .refl _⟩⟩
  | false =>
    refine ⟨fun hf => absurd hf Bool.false_ne_true, fun hdump => ?_⟩
    obtain ⟨t, f, hf, hexec⟩ := exec_eq_of_not_drawsUnder hi hdump
    refine ⟨t, f r, f r', hexec r, hexec r', ?_⟩
    obtain rfl | ⟨p, rfl⟩ := hf
    · exact h
    · exact .refl p

end Sys2Proof.Machine
end

section
/-! PROOFS. The command presented to a step (R48, R50), as a record or by its table number (R61). -/

namespace Sys2Proof.Machine

/-- A number the table decodes is read as the record of its low 131 bits (R60, assumption log 8). -/
theorem decode_of_decodeTableWord {nbits w : Nat} {i : Instr} (h : decodeTableWord nbits w = some i) :
    decode (BitVec.ofNat 131 w) = i := by
  unfold decodeTableWord decodeNumber at h
  by_cases hw : isCommandRecord w = true
  · rw [if_pos hw] at h
    exact Option.some.inj h
  · rw [if_neg hw] at h
    cases h

/-- A command put before the host's events is the one the next step performs, on the state as it was (R50). -/
theorem step_present (s : State) (w : CommandRecord) : step (s.present w) = exec (decode w) s :=
  step_command (State.present_host s w)

/-- Settles O5: a presented command is taken and decoded, and a table number decodes as its record does. -/
theorem stepPerformsTheDecodedCommand : Obligations.StepPerformsTheDecodedCommand := by
  refine ⟨fun s w rest => step_command, fun s nbits w i h => ?_⟩
  rw [State.withFetchWord, step_present, decode_of_decodeTableWord h]

end Sys2Proof.Machine
end

section
/-! PROOFS. Decode and encode are inverse (R60, R61, R65): the three fields of a record are the opcode and the operand
words of the instruction decoded from it, so its record is written from the same fields; and where the fields stand. -/

namespace Sys2Proof

/-- Each opcode has its own constructor, and only the reserved opcode 7 is left for the last arm (R61, R65). -/
@[simp] theorem opcode_decode (w : CommandRecord) : opcode (decode w) = opField w := by
  apply BitVec.eq_of_toNat_eq
  have hlt : (opField w).toNat < 8 := (opField w).isLt
  unfold decode
  interval_cases (opField w).toNat <;> rfl

/-- Every arm of the decoder keeps `A`, the ones whose operation ignores it too (R62). -/
@[simp] theorem operandA_decode (w : CommandRecord) : operandA (decode w) = fieldA w := by
  unfold decode
  split <;> rfl

@[simp] theorem operandB_decode (w : CommandRecord) : operandB (decode w) = fieldB w := by
  unfold decode
  split <;> rfl

@[simp] theorem encode_decode (w : CommandRecord) : encode (decode w) = w := by
  apply BitVec.eq_of_toNat_eq
  rw [encode_toNat, opcode_decode, operandA_decode, operandB_decode, opField_toNat, fieldA_toNat, fieldB_toNat]
  have := w.isLt
  omega

/-- Settles O1: both directions go through the three fields of the record. -/
theorem decodeAndEncodeAreInverse : Obligations.DecodeAndEncodeAreInverse := ⟨decode_encode, encode_decode⟩

/-- A record decodes to an instruction exactly when it is the record of it. -/
theorem decode_eq_iff {w : CommandRecord} {i : Instr} : decode w = i ↔ w = encode i := by
  constructor
  · rintro rfl
    exact (encode_decode w).symm
  · rintro rfl
    exact decode_encode i

/-- Settles O2: the bits of a record at a field's place are the bits of the field, and each field is the part of the
instruction that was encoded. -/
theorem recordFieldsStandInTheirBits : Obligations.RecordFieldsStandInTheirBits := by
  intro i
  refine ⟨fun j hj => ?_, fun j hj => ?_, fun j hj => ?_⟩
  · rw [← fieldB_encode, fieldB, BitVec.getLsbD_extractLsb', Nat.zero_add, decide_eq_true hj, Bool.true_and]
  · rw [← fieldA_encode, fieldA, BitVec.getLsbD_extractLsb', decide_eq_true hj, Bool.true_and]
  · rw [← opField_encode, opField, BitVec.getLsbD_extractLsb', decide_eq_true hj, Bool.true_and]

/-- Settles O3: each record is the one the encoder writes for its command. -/
theorem recordsOfTheProgramsDecode : Obligations.RecordsOfTheProgramsDecode := by
  unfold Obligations.RecordsOfTheProgramsDecode
  simp only [decode_eq_iff]
  decide

end Sys2Proof
end

section
/-! PROOFS. The form of the answers: the response record as a number (R63, R64), what a command other than DUMP puts in
it, and operand words that do not reach it (R62). -/

namespace Sys2Proof.Machine

/-- The response record is the status code above the 256 bits of the payload (R63). -/
theorem Response.record_toNat (r : Response) :
    r.record.toNat = r.status.code.toNat * 2 ^ 256 + r.payload.toNat :=
  toNat_append_arith r.status.code r.payload

/-- A widened result keeps its value (R63). -/
@[simp] theorem zext256_toNat (v : Word) : (zext256 v).toNat = v.toNat :=
  BitVec.toNat_setWidth_of_le (by omega)

/-- Every answer but DUMP's is a 64-bit result, widened; of SEED and of a condition it is 0 (R63, R187). -/
theorem exec_response_eq_zext256 {i : Instr} {s t : State} (hi : ∀ a b, i ≠ .dump a b) (h : exec i s = .next t) :
    ∃ st v, t.response = some ⟨st, zext256 v⟩ := by
  obtain ⟨c, rfl⟩ | ⟨a, b, -, -, rfl⟩ | ⟨r, v, -, rfl | rfl⟩ | ⟨a, b, r, rfl, -, -⟩ := exec_next_cases h
  · exact ⟨.raised c, 0, rfl⟩
  · exact ⟨.ok, 0, rfl⟩
  · exact ⟨.ok, v, rfl⟩
  · exact ⟨.ok, v, rfl⟩
  · exact absurd rfl (hi a b)

/-- Settles O13: the record is a concatenation, and a widened 64-bit result stays below 2^64. -/
theorem responseRecordHasItsForm : Obligations.ResponseRecordHasItsForm := by
  constructor
  · intro st p
    rw [Response.record_toNat]
    cases st with
    | ok => rfl
    | raised c => cases c <;> rfl
  · intro i s t rsp hi h hrsp
    obtain ⟨st, v, hv⟩ := exec_response_eq_zext256 hi h
    obtain rfl : ⟨st, zext256 v⟩ = rsp := Option.some.inj (hv.symm.trans hrsp)
    rw [zext256_toNat]
    exact v.isLt

/-- Settles O4: each arm of `exec` drops the operand words its operation does not use. -/
theorem unusedOperandsHaveNoEffect : Obligations.UnusedOperandsHaveNoEffect :=
  fun _ _ _ _ _ => ⟨rfl, rfl, rfl, rfl, rfl, rfl, rfl⟩

end Sys2Proof.Machine
end

section
/-! PROOFS. The assembly syntax (R72, R73): the two decimal literals of the spec are rounded to their patterns. -/

namespace Sys2Proof.Machine

/-- A decimal literal that is not 0 is rounded once, from its exact value (R72). -/
theorem Literal.word_decimal {neg : Bool} {digits : Nat} (places : Nat) (h : digits ≠ 0) :
    (Literal.decimal neg digits places).word = rne neg digits (10 ^ places) := if_neg h

/-- The golden seed is an integer that binary64 represents exactly (R72). -/
theorem rne_goldenSeed : rne false 1722039290 (10 ^ 0) = 0x41D9A90EFE800000 := by decide +kernel

theorem rne_minusHalf : rne true 5 (10 ^ 1) = 0xBFE0000000000000 := by decide +kernel

/-- Settles O56: each line and each spelling has its own arm, and the two decimals round to their patterns. -/
theorem assemblyStandsForItsCommands : Obligations.AssemblyStandsForItsCommands := by
  refine ⟨fun d m n => ⟨rfl, rfl, rfl, rfl, rfl, rfl, rfl, rfl, rfl, rfl, rfl, rfl, rfl, rfl, rfl, rfl⟩,
    fun w => ⟨rfl, rfl, rfl, rfl, ?_, ?_⟩⟩
  · rw [Literal.word_decimal 0 (by decide), rne_goldenSeed]
  · rw [Literal.word_decimal 1 (by decide), rne_minusHalf]

end Sys2Proof.Machine
end

section
/-! PROOFS. The finite patterns, the infinities and the zeros, and signed counts of units (R81). -/

namespace Sys2Proof.Machine

theorem isFinite_pattern {s : Bool} {e f : Nat} (he : e < 2047) : isFinite (pattern s e f) = true := by
  rw [isFinite, expField_pattern, bne_iff_ne]
  omega

@[simp] theorem isFinite_infinity (s : Bool) : isFinite (infinity s) = false := by simp [isFinite, infinity]

/-- A pattern that is no NaN is finite or the infinity of its sign (R81). -/
theorem isFinite_or_eq_infinity {p : Word} (h : isNaN p = false) :
    isFinite p = true ∨ p = infinity (signBit p) := by
  by_cases he : expField p = 2047
  · have hf : fracField p = 0 := by simpa [isNaN, he] using h
    exact .inr (eq_of_fields (by simp [infinity]) (by simp [infinity, he]) (by simp [infinity, hf]))
  · exact .inl (by simp [isFinite, he])

theorem ne_infinity_of_isFinite {p : Word} (h : isFinite p = true) (s : Bool) : p ≠ infinity s := by
  rintro rfl
  simp at h

theorem isFinite_zero (s : Bool) : isFinite (zero s) = true := isFinite_pattern (by decide)

theorem zero_injective {s t : Bool} (h : zero s = zero t) : s = t := by
  simpa only [zero, signBit_pattern] using congrArg signBit h

theorem zero_false_eq : zero false = 0 := rfl

theorem zero_true_eq : zero true = 0x8000000000000000 := rfl

@[simp] theorem signed_false (m : Nat) : signed false m = m := rfl

@[simp] theorem signed_true (m : Nat) : signed true m = -m := rfl

@[simp] theorem signed_zero (s : Bool) : signed s 0 = 0 := by cases s <;> rfl

theorem signed_not (s : Bool) (m : Nat) : signed (!s) m = -signed s m := by
  cases s with
  | false => rfl
  | true => exact (neg_neg (m : Int)).symm

/-- Two signed counts cancel, the second not 0, only if they differ in the sign alone. -/
theorem opposite_of_signed_add_eq_zero {s t : Bool} {m n : Nat} (hn : n ≠ 0) (h : signed s m + signed t n = 0) :
    s = !t ∧ m = n := by
  cases s with
  | false =>
    cases t with
    | false => rw [signed_false, signed_false] at h; omega
    | true => rw [signed_false, signed_true] at h; exact ⟨rfl, by omega⟩
  | true =>
    cases t with
    | false => rw [signed_true, signed_false] at h; exact ⟨rfl, by omega⟩
    | true => rw [signed_true, signed_true] at h; omega

end Sys2Proof.Machine
end

section
/-! PROOFS. The magnitudes of patterns (R81): each is written by one exponent field and one fraction field, and they
lie on grids of powers of two. -/

namespace Sys2Proof.Machine

/-- The magnitude of a subnormal pattern or zero, by its fields (R81). -/
theorem magnitude_pattern_zero (s : Bool) {f : Nat} (hf : f < 2 ^ 52) : magnitude (pattern s 0 f) = f := by
  rw [magnitude, expField_pattern, if_pos rfl, fracField_pattern, Nat.mod_eq_of_lt hf]

/-- The magnitude of a normal pattern, by its fields (R81). -/
theorem magnitude_pattern_succ (s : Bool) {e f : Nat} (he : e < 2047) (hf : f < 2 ^ 52) :
    magnitude (pattern s (e + 1) f) = (2 ^ 52 + f) * 2 ^ e := by
  rw [magnitude, expField_pattern, fracField_pattern, Nat.mod_eq_of_lt hf, Nat.mod_eq_of_lt (by omega),
    if_neg (by omega), Nat.add_sub_cancel]

@[simp] theorem magnitude_zero (s : Bool) : magnitude (zero s) = 0 := magnitude_pattern_zero s (by decide)

/-- The two forms of a magnitude: below `2^52` units, or an integer of 53 bits times a power of two (R81). -/
theorem magnitude_cases (p : Word) :
    (expField p = 0 ∧ magnitude p = fracField p) ∨
      ∃ j, expField p = j + 1 ∧ magnitude p = (2 ^ 52 + fracField p) * 2 ^ j := by
  cases h : expField p with
  | zero => exact .inl ⟨rfl, by rw [magnitude, if_pos h]⟩
  | succ j => exact .inr ⟨j, rfl, by rw [magnitude, h, if_neg (Nat.succ_ne_zero j), Nat.add_sub_cancel]⟩

/-- A normal magnitude lies between the two powers of two its exponent field names (R81). -/
theorem magnitude_bounds {p : Word} {j : Nat} (h : expField p = j + 1) :
    2 ^ (52 + j) ≤ magnitude p ∧ magnitude p < 2 ^ (53 + j) := by
  have hf := fracField_lt p
  obtain ⟨h0, -⟩ | ⟨i, hi, hm⟩ := magnitude_cases p
  · omega
  · obtain rfl : i = j := by omega
    rw [hm, pow_add, pow_add]
    exact ⟨Nat.mul_le_mul_right _ (by omega), Nat.mul_lt_mul_of_pos_right (by omega) (by positivity)⟩

/-- The exponent field is read off the magnitude (R81). -/
theorem expField_eq_log2_magnitude (p : Word) : expField p = Nat.log2 (magnitude p) - 51 := by
  cases h : expField p with
  | zero =>
    have hm : magnitude p < 2 ^ 52 := by
      rw [magnitude, if_pos h]
      exact fracField_lt p
    by_cases h0 : magnitude p = 0
    · simp [h0]
    · have := (Nat.log2_lt h0).2 hm
      omega
  | succ j =>
    obtain ⟨hlo, hhi⟩ := magnitude_bounds h
    have h0 : magnitude p ≠ 0 := fun h0 => by
      rw [h0] at hlo
      exact absurd hlo (Nat.not_le.2 (by positivity))
    have := (Nat.log2_lt h0).2 hhi
    have := (Nat.le_log2 h0).2 hlo
    omega

/-- A magnitude is written by one exponent field and one fraction field: the pattern is its sign and its magnitude. -/
theorem eq_of_signBit_of_magnitude {p q : Word} (hs : signBit p = signBit q) (hm : magnitude p = magnitude q) :
    p = q := by
  have he : expField p = expField q := by rw [expField_eq_log2_magnitude, expField_eq_log2_magnitude, hm]
  refine eq_of_fields hs he ?_
  obtain ⟨hp0, hp⟩ | ⟨i, hi, hp⟩ := magnitude_cases p
  · rw [magnitude, magnitude, if_pos hp0, if_pos (he ▸ hp0)] at hm
    exact hm
  · rw [magnitude, magnitude, if_neg (by omega), if_neg (by omega), he] at hm
    exact Nat.add_left_cancel (Nat.eq_of_mul_eq_mul_right (by positivity) hm)

/-- From `2^u` units on, `u` at least 52, every magnitude is on the grid of `2^(u - 52)` units: an integer of 53 bits
does not reach further down. -/
theorem two_pow_dvd_magnitude {p : Word} {u : Nat} (hu : 52 ≤ u) (h : 2 ^ u ≤ magnitude p) :
    2 ^ (u - 52) ∣ magnitude p := by
  obtain ⟨-, hp⟩ | ⟨j, hj, hp⟩ := magnitude_cases p
  · have := Nat.pow_le_pow_right (by decide : 0 < 2) hu
    have := fracField_lt p
    omega
  · have hlt : u < 53 + j := (Nat.pow_lt_pow_iff_right (by decide)).1 (h.trans_lt (magnitude_bounds hj).2)
    rw [hp]
    exact Dvd.dvd.mul_left (Nat.pow_dvd_pow 2 (by omega)) _

/-- A pattern of exponent field at most `t + 2` has a magnitude of at most `(2^53 - 1) * 2^(t + 1)` (R81). -/
theorem magnitude_lt_of_expField_le {p : Word} {t : Nat} (h : expField p ≤ t + 2) :
    magnitude p < (2 ^ 54 - 1) * 2 ^ t := by
  have hf := fracField_lt p
  have ht : 0 < 2 ^ t := by positivity
  obtain ⟨-, hp⟩ | ⟨j, hj, hp⟩ := magnitude_cases p
  · omega
  · have hle : 2 ^ j ≤ 2 * 2 ^ t := (Nat.pow_le_pow_right (by decide) (by omega)).trans_eq (pow_succ' 2 t)
    calc magnitude p = (2 ^ 52 + fracField p) * 2 ^ j := hp
      _ ≤ (2 ^ 53 - 1) * (2 * 2 ^ t) := Nat.mul_le_mul (by omega) hle
      _ < (2 ^ 54 - 1) * 2 ^ t := by omega

/-- A finite magnitude is below the value from which rounding overflows (R81, R83). -/
theorem magnitude_lt_of_isFinite {p : Word} (h : isFinite p = true) : magnitude p < (2 ^ 54 - 1) * 2 ^ 2044 := by
  rw [isFinite, bne_iff_ne] at h
  have := expField_lt p
  exact magnitude_lt_of_expField_le (by omega)

/-- Every integer of at most 53 bits times a power of two up to `2^2045` is the magnitude of a finite pattern of either
sign (R81). -/
theorem exists_magnitude_eq (s : Bool) {n : Nat} (hn : n < 2 ^ 53) {j : Nat} (hj : j ≤ 2045) :
    ∃ q, isFinite q = true ∧ signBit q = s ∧ magnitude q = n * 2 ^ j := by
  induction j generalizing n with
  | zero =>
    by_cases h : n < 2 ^ 52
    · exact ⟨pattern s 0 n, isFinite_pattern (by decide), signBit_pattern .., by simp [magnitude_pattern_zero s h]⟩
    · refine ⟨pattern s 1 (n - 2 ^ 52), isFinite_pattern (by decide), signBit_pattern .., ?_⟩
      rw [magnitude_pattern_succ s (by decide) (by omega), Nat.add_sub_cancel' (by omega)]
  | succ j ih =>
    by_cases h : n < 2 ^ 52
    · obtain ⟨q, hq, hs, hm⟩ := ih (n := 2 * n) (by omega) (by omega)
      exact ⟨q, hq, hs, by rw [hm, pow_succ']; ac_rfl⟩
    · refine ⟨pattern s (j + 1 + 1) (n - 2 ^ 52), isFinite_pattern (by omega), signBit_pattern .., ?_⟩
      rw [magnitude_pattern_succ s (by omega) (by omega), Nat.add_sub_cancel' (by omega)]

end Sys2Proof.Machine
end

section
/-! PROOFS. The rounding (R83): the integer it takes is the nearest one, the grid it takes it on is fine enough, and so
the pattern it gives is the nearest of all finite ones. -/

namespace Sys2Proof.Machine

/-- The exact value lies within half a unit of the integer it is rounded to, and at half a unit that integer is even
(the choice of `N` in R83). -/
theorem roundHalfEven_spec (n : Nat) {d : Nat} (hd : 0 < d) :
    2 * n ≤ (2 * roundHalfEven n d + 1) * d ∧ 2 * (roundHalfEven n d * d) ≤ 2 * n + d ∧
      (2 * n = (2 * roundHalfEven n d + 1) * d ∨ 2 * (roundHalfEven n d * d) = 2 * n + d →
        roundHalfEven n d % 2 = 0) := by
  have hr := Nat.mod_lt n hd
  have hn : n / d * d + n % d = n := by rw [mul_comm]; exact Nat.div_add_mod n d
  have hlo : (2 * (n / d) + 1) * d = 2 * (n / d * d) + d := by ring
  have hhi : (2 * (n / d + 1) + 1) * d = 2 * (n / d * d) + 3 * d := by ring
  have hsucc : (n / d + 1) * d = n / d * d + d := by ring
  unfold roundHalfEven
  simp only
  split
  · rw [hlo]; omega
  · split
    · rw [hhi, hsucc]; omega
    · split
      · rw [hlo]; omega
      · rw [hhi, hsucc]; omega

/-- The distance of two naturals, as the difference of integers the statement of R83 takes. -/
theorem natAbs_sub_eq_dist (a b : Nat) : ((a : Int) - (b : Int)).natAbs = Nat.dist a b := by
  unfold Nat.dist
  omega

/-- No other integer is nearer than the rounded one, and if another one is as near the rounded one is even (R83). -/
theorem roundHalfEven_nearest (n : Nat) {d : Nat} (hd : 0 < d) (k : Nat) :
    Nat.dist (roundHalfEven n d * d) n ≤ Nat.dist (k * d) n ∧
      (Nat.dist (roundHalfEven n d * d) n = Nat.dist (k * d) n → k ≠ roundHalfEven n d →
        roundHalfEven n d % 2 = 0) := by
  obtain ⟨hlo, hhi, heven⟩ := roundHalfEven_spec n hd
  have hR : (2 * roundHalfEven n d + 1) * d = 2 * (roundHalfEven n d * d) + d := by ring
  rw [hR] at hlo heven
  unfold Nat.dist
  rcases lt_trichotomy k (roundHalfEven n d) with h | h | h
  · have : (k + 1) * d ≤ roundHalfEven n d * d := Nat.mul_le_mul_right d h
    rw [Nat.add_one_mul] at this
    omega
  · rw [h]
    exact ⟨le_rfl, fun _ hne => absurd rfl hne⟩
  · have : (roundHalfEven n d + 1) * d ≤ k * d := Nat.mul_le_mul_right d h
    rw [Nat.add_one_mul] at this
    omega

/-- The exponent `u` of the grid `rne` rounds on, the integers times `2^(u - 52)` units of 2^-1074 (R83). -/
def rneExponent (num den : Nat) : Nat := max (Nat.log2 (num * 2 ^ 1074 / den)) 52

/-- The integer `rne` rounds to, before a carry into the next exponent (R83). -/
def rneInteger (num den : Nat) : Nat := roundHalfEven (num * 2 ^ 1074) (den * 2 ^ (rneExponent num den - 52))

/-- Without a carry the pattern has the fields of the exponent and the integer (R83). -/
theorem rne_of_no_carry (sign : Bool) {num den : Nat} (h : rneInteger num den ≠ 2 ^ 53) :
    rne sign num den =
      if 2097 < rneExponent num den then infinity sign
      else if rneInteger num den < 2 ^ 52 then pattern sign 0 (rneInteger num den)
      else pattern sign (rneExponent num den - 51) (rneInteger num den - 2 ^ 52) := by
  unfold rneInteger rneExponent at h
  simp only [rne, rneInteger, rneExponent, beq_eq_false_iff_ne.2 h, Bool.false_eq_true, if_false]
  rfl

/-- With a carry it is the power of two above (R83). -/
theorem rne_of_carry (sign : Bool) {num den : Nat} (h : rneInteger num den = 2 ^ 53) :
    rne sign num den =
      if 2097 < rneExponent num den + 1 then infinity sign else pattern sign (rneExponent num den + 1 - 51) 0 := by
  unfold rneInteger rneExponent at h
  simp only [rne, rneExponent, beq_iff_eq.2 h, if_true, lt_irrefl, if_false, Nat.sub_self]
  rfl

theorem le_rneExponent (num den : Nat) : 52 ≤ rneExponent num den := le_max_right _ _

section
variable {num den : Nat}

/-- The exact value is below the power of two above its exponent. -/
theorem lt_two_pow_rneExponent (hden : 0 < den) : num * 2 ^ 1074 < 2 ^ (rneExponent num den + 1) * den := by
  rw [← Nat.div_lt_iff_lt_mul hden]
  by_cases h : num * 2 ^ 1074 / den = 0
  · rw [h]; positivity
  · exact (Nat.log2_lt h).1 (Nat.lt_succ_of_le (le_max_left _ _))

/-- Above the least exponent, the exact value is at least the power of two of its exponent. -/
theorem two_pow_rneExponent_le (hden : 0 < den) (h : 52 < rneExponent num den) :
    2 ^ rneExponent num den * den ≤ num * 2 ^ 1074 := by
  have hu : rneExponent num den = Nat.log2 (num * 2 ^ 1074 / den) := by unfold rneExponent at h ⊢; omega
  have h0 : num * 2 ^ 1074 / den ≠ 0 := fun h0 => by rw [hu, h0, Nat.log2_zero] at h; omega
  rw [← Nat.le_div_iff_mul_le hden, hu]
  exact Nat.log2_self_le h0

/-- The power of two of an exponent on the grid of that exponent. -/
theorem two_pow_rneExponent_mul (num den : Nat) :
    2 ^ rneExponent num den * den = 2 ^ 52 * (den * 2 ^ (rneExponent num den - 52)) := by
  rw [mul_comm den, ← mul_assoc, ← pow_add, Nat.add_sub_cancel' (le_rneExponent num den)]

theorem grid_pos (hden : 0 < den) : 0 < den * 2 ^ (rneExponent num den - 52) := by positivity

/-- The rounded integer has at most 53 bits, or is the power of two that carries (R83). -/
theorem rneInteger_le (hden : 0 < den) : rneInteger num den ≤ 2 ^ 53 := by
  have hD := grid_pos (num := num) hden
  obtain ⟨-, hhi, -⟩ := roundHalfEven_spec (num * 2 ^ 1074) hD
  have hlt := lt_two_pow_rneExponent (num := num) hden
  rw [pow_succ' 2 (rneExponent num den), mul_assoc, two_pow_rneExponent_mul] at hlt
  by_contra! hR
  have := Nat.mul_le_mul_right (den * 2 ^ (rneExponent num den - 52)) hR
  unfold rneInteger at this
  rw [Nat.succ_mul] at this
  omega

/-- Above the least exponent the rounded integer has 53 bits (R83). -/
theorem le_rneInteger (hden : 0 < den) (h : 52 < rneExponent num den) : 2 ^ 52 ≤ rneInteger num den := by
  have hD := grid_pos (num := num) hden
  obtain ⟨hlo, -, -⟩ := roundHalfEven_spec (num * 2 ^ 1074) hD
  have hle := two_pow_rneExponent_le hden h
  rw [two_pow_rneExponent_mul] at hle
  by_contra! hR
  have := Nat.mul_le_mul_right (den * 2 ^ (rneExponent num den - 52)) 
    (show 2 * rneInteger num den + 1 ≤ 2 ^ 53 - 1 by omega)
  unfold rneInteger at this
  omega

end

end Sys2Proof.Machine
end

section
/-! PROOFS. Rounding gives the nearest finite pattern, or the infinity from the overflow limit on (R83). -/

namespace Sys2Proof.Machine

/-- A power of two as a product, at exponents too great to evaluate. -/
theorem two_pow_eq_mul (a b c : Nat) (h : a + b = c) : 2 ^ c = 2 ^ a * 2 ^ b := h ▸ pow_add 2 a b

section
variable {num den : Nat}

/-- The overflow limit in units of 2^-1074. -/
theorem overflow_limit_units :
    (2 ^ 54 - 1) * 2 ^ 970 * den ≤ num ↔ (2 ^ 54 - 1) * 2 ^ 2044 * den ≤ num * 2 ^ 1074 := by
  have h : (2 ^ 54 - 1) * 2 ^ 2044 * den = (2 ^ 54 - 1) * 2 ^ 970 * den * 2 ^ 1074 := by
    rw [two_pow_eq_mul 970 1074 2044 rfl]
    rw [mul_right_comm _ den, ← mul_assoc]
  rw [h, Nat.mul_le_mul_right_iff (by positivity)]

/-- At the greatest exponent of a finite pattern the rounding carries exactly from the overflow limit on: the limit is
half way between `2^53 - 1`, which is odd, and `2^53`. -/
theorem rneInteger_eq_carry_iff (hden : 0 < den) (hu : rneExponent num den = 2097) :
    rneInteger num den = 2 ^ 53 ↔ (2 ^ 54 - 1) * 2 ^ 2044 * den ≤ num * 2 ^ 1074 := by
  obtain ⟨hlo, hhi, heven⟩ := roundHalfEven_spec (num * 2 ^ 1074) (grid_pos (num := num) hden)
  have hle := rneInteger_le (num := num) hden
  have hgrid : den * 2 ^ (rneExponent num den - 52) = 2 * (2 ^ 2044 * den) := by
    rw [hu, two_pow_eq_mul 1 2044 (2097 - 52) rfl]
    rw [pow_one, mul_comm den, mul_assoc]
  have hpos : 0 < 2 ^ 2044 * den := by positivity
  unfold rneInteger at hle ⊢
  rw [hgrid] at hlo hhi heven hle ⊢
  rw [mul_assoc]
  generalize num * 2 ^ 1074 = n at *
  generalize 2 ^ 2044 * den = c at *
  generalize roundHalfEven n (2 * c) = R at *
  constructor
  · rintro rfl
    omega
  · intro hn
    by_contra hR
    obtain h | h : R + 2 ≤ 2 ^ 53 ∨ R = 2 ^ 53 - 1 := by omega
    · have := Nat.mul_le_mul_right (2 * c) (show 2 * R + 1 ≤ 2 ^ 54 - 3 by omega)
      omega
    · subst h
      omega

/-- The limit from which the rounding gives an infinity (R83). -/
theorem rne_eq_infinity (sign : Bool) (hden : 0 < den) (h : (2 ^ 54 - 1) * 2 ^ 970 * den ≤ num) :
    rne sign num den = infinity sign := by
  rw [overflow_limit_units] at h
  have hu : 2097 ≤ rneExponent num den := by
    have hlt := (h.trans_lt (lt_two_pow_rneExponent hden))
    have hpow : 2 ^ 2097 * den ≤ (2 ^ 54 - 1) * 2 ^ 2044 * den := by
      rw [two_pow_eq_mul 53 2044 2097 rfl]
      exact Nat.mul_le_mul_right _ (Nat.mul_le_mul_right _ (by decide))
    have hexp : 2097 < rneExponent num den + 1 :=
      (pow_lt_pow_iff_right₀ one_lt_two).1 (Nat.lt_of_mul_lt_mul_right (hpow.trans_lt hlt))
    exact Nat.le_of_lt_succ hexp
  by_cases hcarry : rneInteger num den = 2 ^ 53
  · rw [rne_of_carry sign hcarry, if_pos (by omega)]
  · have : rneExponent num den ≠ 2097 := fun heq => hcarry ((rneInteger_eq_carry_iff hden heq).2 h)
    rw [rne_of_no_carry sign hcarry, if_pos (by omega)]

/-- Below the limit the exponent is that of a finite pattern. -/
theorem rneExponent_le (hden : 0 < den) (h : num * 2 ^ 1074 < (2 ^ 54 - 1) * 2 ^ 2044 * den) :
    rneExponent num den ≤ 2097 := by
  by_contra hu
  replace hu : 2098 ≤ rneExponent num den := by omega
  have hle := (two_pow_rneExponent_le hden (by omega)).trans_lt h
  have hpow : (2 ^ 54 - 1) * 2 ^ 2044 * den ≤ 2 ^ rneExponent num den * den := by
    refine Nat.mul_le_mul_right _ (le_trans ?_ (pow_le_pow_right₀ one_le_two hu))
    rw [two_pow_eq_mul 54 2044 2098 rfl]
    exact Nat.mul_le_mul_right _ (by decide)
  exact absurd hle (Nat.not_lt.2 hpow)

/-- Below the limit the rounding gives a finite pattern of the sign asked for. Its magnitude is the rounded integer on
the grid of the exponent, and its fraction is even where that integer is (R83). -/
theorem rne_finite (sign : Bool) (hden : 0 < den) (h : num < (2 ^ 54 - 1) * 2 ^ 970 * den) :
    isFinite (rne sign num den) = true ∧ signBit (rne sign num den) = sign ∧
      magnitude (rne sign num den) = rneInteger num den * 2 ^ (rneExponent num den - 52) ∧
      fracField (rne sign num den) % 2 = rneInteger num den % 2 := by
  rw [← Nat.not_le, overflow_limit_units, Nat.not_le] at h
  have hu := rneExponent_le hden h
  have hmin := le_rneExponent num den
  by_cases hcarry : rneInteger num den = 2 ^ 53
  · have hlt : rneExponent num den ≠ 2097 := fun heq => Nat.not_le.2 h ((rneInteger_eq_carry_iff hden heq).1 hcarry)
    rw [rne_of_carry sign hcarry, if_neg (by omega), hcarry]
    refine ⟨isFinite_pattern (by omega), signBit_pattern .., ?_, by simp⟩
    rw [show rneExponent num den + 1 - 51 = rneExponent num den - 51 + 1 by omega,
      magnitude_pattern_succ sign (by omega) (by decide),
      show rneExponent num den - 51 = rneExponent num den - 52 + 1 by omega, pow_succ' 2 (rneExponent num den - 52)]
    ring
  · have hle := rneInteger_le (num := num) hden
    rw [rne_of_no_carry sign hcarry, if_neg (by omega)]
    by_cases hsub : rneInteger num den < 2 ^ 52
    · have hu52 : rneExponent num den = 52 := by
        by_contra hne
        exact absurd (le_rneInteger hden (by omega)) (Nat.not_le.2 hsub)
      rw [if_pos hsub]
      refine ⟨isFinite_pattern (by decide), signBit_pattern .., ?_, ?_⟩
      · rw [magnitude_pattern_zero sign hsub, hu52, Nat.sub_self, pow_zero, mul_one]
      · rw [fracField_pattern, Nat.mod_eq_of_lt hsub]
    · rw [if_neg hsub]
      refine ⟨isFinite_pattern (by omega), signBit_pattern .., ?_, ?_⟩
      · rw [show rneExponent num den - 51 = rneExponent num den - 52 + 1 by omega,
          magnitude_pattern_succ sign (by omega) (by omega), Nat.add_sub_cancel' (by omega)]
      · rw [fracField_pattern]
        omega

/-- No magnitude `m` is nearer to the exact value than the rounded integer on its grid, and if another one is as near
that integer is even. On the grid this is the rounding to an integer; off the grid `m` is below the power of two that
the exact value has reached, so that power, which is on the grid, is nearer. -/
theorem rneInteger_nearest (hden : 0 < den) {m : Nat}
    (hm : 2 ^ rneExponent num den ≤ m → 2 ^ (rneExponent num den - 52) ∣ m) :
    Nat.dist (rneInteger num den * 2 ^ (rneExponent num den - 52) * den) (num * 2 ^ 1074) ≤
        Nat.dist (m * den) (num * 2 ^ 1074) ∧
      (Nat.dist (rneInteger num den * 2 ^ (rneExponent num den - 52) * den) (num * 2 ^ 1074) =
          Nat.dist (m * den) (num * 2 ^ 1074) →
        m ≠ rneInteger num den * 2 ^ (rneExponent num den - 52) → rneInteger num den % 2 = 0) := by
  have hnearest := roundHalfEven_nearest (num * 2 ^ 1074) (grid_pos (num := num) hden)
  have hgrid (k : Nat) : k * (den * 2 ^ (rneExponent num den - 52)) = k * 2 ^ (rneExponent num den - 52) * den := by
    ring
  simp only [hgrid] at hnearest
  by_cases hdvd : 2 ^ (rneExponent num den - 52) ∣ m
  · obtain ⟨k, rfl⟩ := hdvd
    rw [mul_comm _ k]
    obtain ⟨hle, htie⟩ := hnearest k
    exact ⟨hle, fun heq hne => htie heq fun hk => hne (by rw [hk, rneInteger])⟩
  · have hlt : m < 2 ^ rneExponent num den := by
      by_contra! h
      exact hdvd (hm h)
    have hu : 52 < rneExponent num den := by
      refine lt_of_le_of_ne (le_rneExponent num den) fun h => hdvd ?_
      rw [← h]
      exact one_dvd m
    have hreached := two_pow_rneExponent_le hden hu
    have hnear := (hnearest (2 ^ 52)).1
    rw [← pow_add, Nat.add_sub_cancel' hu.le] at hnear
    have hstrict := Nat.mul_lt_mul_of_pos_right hlt hden
    have hcloser : Nat.dist (2 ^ rneExponent num den * den) (num * 2 ^ 1074) < Nat.dist (m * den) (num * 2 ^ 1074) := by
      rw [Nat.dist_eq_sub_of_le hreached, Nat.dist_eq_sub_of_le (hstrict.le.trans hreached)]
      exact Nat.sub_lt_sub_left (hstrict.trans_le hreached) hstrict
    have hfar := hnear.trans_lt hcloser
    exact ⟨hfar.le, fun heq _ => absurd heq hfar.ne⟩

/-- No finite pattern is nearer to the exact value than the rounding, and the fraction of the rounding is even if a
finite pattern of another magnitude is as near (R83). -/
theorem rne_nearest (sign : Bool) (hden : 0 < den) (h : num < (2 ^ 54 - 1) * 2 ^ 970 * den) (q : Word) :
    Nat.dist (magnitude (rne sign num den) * den) (num * 2 ^ 1074) ≤ Nat.dist (magnitude q * den) (num * 2 ^ 1074) ∧
      (Nat.dist (magnitude (rne sign num den) * den) (num * 2 ^ 1074) =
          Nat.dist (magnitude q * den) (num * 2 ^ 1074) →
        magnitude q ≠ magnitude (rne sign num den) → fracField (rne sign num den) % 2 = 0) := by
  obtain ⟨-, -, hmag, heven⟩ := rne_finite sign hden h
  rw [hmag, heven]
  exact rneInteger_nearest hden (two_pow_dvd_magnitude (le_rneExponent num den))

end

/-- Settles O18: the overflow limit decides between the infinity and the nearest finite pattern. -/
theorem roundingIsNearestTiesToEven : Obligations.RoundingIsNearestTiesToEven := by
  unfold Obligations.RoundingIsNearestTiesToEven
  intro sign num den _ hden far
  have hfar (p : Word) : far p = Nat.dist (magnitude p * den) (num * 2 ^ 1074) := by
    rw [← natAbs_sub_eq_dist, Nat.cast_mul, Nat.cast_mul, Nat.cast_pow, Nat.cast_ofNat]
  cases Nat.lt_or_ge num ((2 ^ 54 - 1) * 2 ^ 970 * den) with
  | inl h =>
    rw [if_neg (Nat.not_le.2 h)]
    obtain ⟨hfin, hsign, -, -⟩ := rne_finite sign hden h
    refine ⟨hfin, hsign, fun q _ => ?_⟩
    rw [hfar, hfar]
    exact rne_nearest sign hden h q
  | inr h =>
    rw [if_pos h]
    exact rne_eq_infinity sign hden h

end Sys2Proof.Machine
end

section
/-! PROOFS. An exact value that a pattern holds is rounded to that pattern (R83), and so `ffloor` gives the integer
itself (R87). -/

namespace Sys2Proof.Machine

theorem magnitude_lt_limit_of_isFinite {q : Word} (hq : isFinite q = true) {num den : Nat} (hden : 0 < den)
    (h : magnitude q * den = num * 2 ^ 1074) : num < (2 ^ 54 - 1) * 2 ^ 970 * den := by
  rw [← Nat.not_le, overflow_limit_units, Nat.not_le, ← h]
  exact Nat.mul_lt_mul_of_pos_right (magnitude_lt_of_isFinite hq) hden

/-- The rounding of the exact value of a finite pattern is that pattern (R83). -/
theorem rne_eq_of_magnitude {q : Word} (hq : isFinite q = true) {num den : Nat} (hden : 0 < den)
    (h : magnitude q * den = num * 2 ^ 1074) : rne (signBit q) num den = q := by
  have hlimit := magnitude_lt_limit_of_isFinite hq hden h
  obtain ⟨-, hsign, -, -⟩ := rne_finite (signBit q) hden hlimit
  have hnearest := (rne_nearest (signBit q) hden hlimit q).1
  rw [h, Nat.dist_self, Nat.le_zero, ← h] at hnearest
  exact eq_of_signBit_of_magnitude hsign (Nat.eq_of_mul_eq_mul_right hden (Nat.eq_of_dist_eq_zero hnearest))

/-- An integer of at most 53 bits is held exactly (R83). -/
theorem rne_integer (s : Bool) {c : Nat} (hc : c < 2 ^ 53) :
    isFinite (rne s c 1) = true ∧ signBit (rne s c 1) = s ∧ magnitude (rne s c 1) = c * 2 ^ 1074 := by
  obtain ⟨q, hq, rfl, hm⟩ := exists_magnitude_eq s hc (j := 1074) (by decide)
  rw [rne_eq_of_magnitude hq one_pos (by rw [mul_one, hm])]
  exact ⟨hq, rfl, hm⟩

/-- From 2^52 on every finite value is an integer (R81). -/
theorem exists_integer_of_le_magnitude {a : Word} (h : 2 ^ 52 * 2 ^ 1074 ≤ magnitude a) :
    ∃ c, magnitude a = c * 2 ^ 1074 := by
  rw [← two_pow_eq_mul 52 1074 1126 rfl] at h
  have hdvd := two_pow_dvd_magnitude (u := 1126) (by decide) h
  rw [show 1126 - 52 = 1074 from rfl] at hdvd
  exact exists_eq_mul_left_of_dvd hdvd

/-- An integer less than 1 away from the magnitude of a finite pattern is held exactly, with either sign: below 2^52 it
has at most 53 bits, and from there on it is the magnitude itself (R87). -/
theorem rne_neighbour_integer {a : Word} (ha : isFinite a = true) {c : Nat}
    (hlo : magnitude a < c * 2 ^ 1074 + 2 ^ 1074) (hhi : c * 2 ^ 1074 < magnitude a + 2 ^ 1074) :
    isFinite (rne (signBit a) c 1) = true ∧ signBit (rne (signBit a) c 1) = signBit a ∧
      magnitude (rne (signBit a) c 1) = c * 2 ^ 1074 := by
  rw [← Nat.add_one_mul] at hlo
  obtain hlt | hle := Nat.lt_or_ge (magnitude a) (2 ^ 52 * 2 ^ 1074)
  · have hc : c * 2 ^ 1074 < (2 ^ 52 + 1) * 2 ^ 1074 := by
      rw [Nat.add_one_mul]
      exact hhi.trans (Nat.add_lt_add_right hlt _)
    have := Nat.lt_of_mul_lt_mul_right hc
    exact rne_integer (signBit a) (by omega)
  · obtain ⟨e, he⟩ := exists_integer_of_le_magnitude hle
    rw [he, ← Nat.add_one_mul] at hhi
    rw [he] at hlo
    have hce : c = e := by
      have := Nat.lt_of_mul_lt_mul_right hhi
      have := Nat.lt_of_mul_lt_mul_right hlo
      omega
    rw [rne_eq_of_magnitude ha one_pos (by rw [mul_one, he, hce])]
    exact ⟨ha, rfl, by rw [he, hce]⟩

/-- The bounds of the quotient rounded down. -/
theorem div_bounds (m : Nat) {d : Nat} (hd : 0 < d) : m / d * d ≤ m ∧ m < m / d * d + d :=
  ⟨Nat.div_mul_le_self m d, Nat.lt_div_mul_add hd⟩

/-- The bounds of the quotient rounded up, as `ffloor` writes it for a negative value. -/
theorem ceil_bounds (m : Nat) {d : Nat} (hd : 0 < d) :
    m ≤ (m + (d - 1)) / d * d ∧ (m + (d - 1)) / d * d < m + d := by
  have := div_bounds (m + (d - 1)) hd
  omega

/-- The bounds of the quotient rounded up determine it. -/
theorem ceil_eq {m c d : Nat} (hd : 0 < d) (hlo : m ≤ c * d) (hhi : c * d < m + d) : (m + (d - 1)) / d = c := by
  refine Nat.div_eq_of_lt_le (by omega) ?_
  rw [Nat.add_one_mul]
  omega

/-- `ffloor` of a zero is that zero (R87). -/
theorem ffloor_of_magnitude_zero {a : Word} (ha : isFinite a = true) (h : magnitude a = 0) : ffloor a = some a := by
  simp only [ffloor, classify_of_isFinite ha, h, if_true]

/-- `ffloor` of a negative value: the magnitude is rounded up (R87). -/
theorem ffloor_negative {a : Word} (ha : isFinite a = true) (h : magnitude a ≠ 0) (hs : signBit a = true) :
    ffloor a = some (rne (signBit a) ((magnitude a + (2 ^ 1074 - 1)) / 2 ^ 1074) 1) := by
  simp only [ffloor, classify_of_isFinite ha, h, hs, if_true, if_false]

/-- `ffloor` of a value in (0, 1) (R87). -/
theorem ffloor_below_one {a : Word} (ha : isFinite a = true) (h : magnitude a ≠ 0) (hs : signBit a = false)
    (hlt : magnitude a < 2 ^ 1074) : ffloor a = some (zero false) := by
  simp only [ffloor, classify_of_isFinite ha, h, hs, hlt, Bool.false_eq_true, if_true, if_false]

/-- `ffloor` of a value from 1 on: the magnitude is rounded down (R87). -/
theorem ffloor_from_one {a : Word} (ha : isFinite a = true) (hs : signBit a = false)
    (hle : 2 ^ 1074 ≤ magnitude a) : ffloor a = some (rne (signBit a) (magnitude a / 2 ^ 1074) 1) := by
  have h : magnitude a ≠ 0 := (lt_of_lt_of_le (by positivity) hle).ne'
  simp only [ffloor, classify_of_isFinite ha, h, hs, Nat.not_lt.2 hle, Bool.false_eq_true, if_false]

theorem natCast_two_pow_units : ((2 ^ 1074 : Nat) : Int) = 2 ^ 1074 := Nat.cast_pow 2 1074

/-- The pattern `g` holds the largest integer not greater than the value of `a` (R87). -/
def IsFloorOf (a g : Word) : Prop :=
  ∃ k, HasIntValue g k ∧ k * 2 ^ 1074 ≤ signed (signBit a) (magnitude a) ∧
    signed (signBit a) (magnitude a) < (k + 1) * 2 ^ 1074

/-- For a value that is not negative: the integer of the magnitude rounded down. -/
theorem isFloorOf_of_not_negative {a g : Word} {c : Nat} (ha : signBit a = false) (hg : isFinite g = true)
    (hs : signBit g = false) (hm : magnitude g = c * 2 ^ 1074) (hlo : c * 2 ^ 1074 ≤ magnitude a)
    (hhi : magnitude a < c * 2 ^ 1074 + 2 ^ 1074) : IsFloorOf a g := by
  unfold IsFloorOf HasIntValue
  rw [ha, hs, hm]
  refine ⟨c, ⟨hg, ?_⟩, ?_⟩
  · rw [← natCast_two_pow_units]
    rw [signed_false, Nat.cast_mul]
  · rw [← natCast_two_pow_units]
    simp only [signed_false, add_mul, one_mul, ← Nat.cast_mul, ← Nat.cast_add, Nat.cast_le,
      Nat.cast_lt]
    exact ⟨hlo, hhi⟩

/-- For a value that is not positive: the negative of the magnitude rounded up. -/
theorem isFloorOf_of_negative {a g : Word} {c : Nat} (ha : signBit a = true) (hg : isFinite g = true)
    (hs : signBit g = true) (hm : magnitude g = c * 2 ^ 1074) (hlo : magnitude a ≤ c * 2 ^ 1074)
    (hhi : c * 2 ^ 1074 < magnitude a + 2 ^ 1074) : IsFloorOf a g := by
  unfold IsFloorOf HasIntValue
  rw [ha, hs, hm]
  refine ⟨-c, ⟨hg, ?_⟩, ?_⟩
  · rw [← natCast_two_pow_units]
    rw [signed_true, Nat.cast_mul, neg_mul]
  · rw [← natCast_two_pow_units]
    generalize 2 ^ 1074 = d at hlo hhi
    have hlo' : (magnitude a : Int) ≤ c * d := by exact_mod_cast hlo
    have hhi' : (c * d : Int) < magnitude a + d := by exact_mod_cast hhi
    rw [signed_true]
    constructor <;> linarith

/-- `ffloor` of a finite value holds the largest integer not greater than it (R87). -/
theorem ffloor_isFloorOf {a : Word} (ha : isFinite a = true) : ∃ g, ffloor a = some g ∧ IsFloorOf a g := by
  have hone : 0 < 2 ^ 1074 := by positivity
  by_cases h0 : magnitude a = 0
  · refine ⟨a, ffloor_of_magnitude_zero ha h0, ?_⟩
    cases hs : signBit a with
    | false => exact isFloorOf_of_not_negative (c := 0) hs ha hs (by omega) (by omega) (by omega)
    | true => exact isFloorOf_of_negative (c := 0) hs ha hs (by omega) (by omega) (by omega)
  · cases hs : signBit a with
    | false =>
      cases Nat.lt_or_ge (magnitude a) (2 ^ 1074) with
      | inl hlt =>
        refine ⟨_, ffloor_below_one ha h0 hs hlt, ?_⟩
        exact isFloorOf_of_not_negative (c := 0) hs (isFinite_zero _) rfl
          (by rw [magnitude_zero, Nat.zero_mul]) (by omega) (by omega)
      | inr hle =>
        obtain ⟨hlo, hhi⟩ := div_bounds (magnitude a) hone
        obtain ⟨hg, hgs, hgm⟩ := rne_neighbour_integer ha hhi (by omega)
        exact ⟨_, ffloor_from_one ha hs hle, isFloorOf_of_not_negative hs hg (hgs.trans hs) hgm hlo hhi⟩
    | true =>
      obtain ⟨hlo, hhi⟩ := ceil_bounds (magnitude a) hone
      obtain ⟨hg, hgs, hgm⟩ := rne_neighbour_integer ha (by omega) hhi
      exact ⟨_, ffloor_negative ha h0 hs, isFloorOf_of_negative hs hg (hgs.trans hs) hgm hlo hhi⟩

/-- An integer value is its own floor (R87): from 2^52 on every value is one. -/
theorem ffloor_of_integer {a : Word} (ha : isFinite a = true) {c : Nat} (hc : magnitude a = c * 2 ^ 1074) :
    ffloor a = some a := by
  have hone : 0 < 2 ^ 1074 := by positivity
  have hexact : rne (signBit a) c 1 = a := rne_eq_of_magnitude ha one_pos (by rw [mul_one, hc])
  by_cases h0 : magnitude a = 0
  · exact ffloor_of_magnitude_zero ha h0
  · cases hs : signBit a with
    | false =>
      have hc0 : 0 < c := Nat.pos_of_ne_zero fun h => h0 (by rw [hc, h, Nat.zero_mul])
      have hle : 2 ^ 1074 ≤ magnitude a := hc ▸ Nat.le_mul_of_pos_left _ hc0
      rw [ffloor_from_one ha hs hle, hc, Nat.mul_div_cancel _ hone, hexact]
    | true =>
      rw [ffloor_negative ha h0 hs, ceil_eq hone hc.le (by omega), hexact]

theorem rne_minusOne : rne true 1 1 = 0xBFF0000000000000 := by decide +kernel

/-- Settles O19: the special operands by the definition, and the finite ones by the exact floor. -/
theorem floorIsTheLargestIntegerBelow : Obligations.FloorIsTheLargestIntegerBelow := by
  unfold Obligations.FloorIsTheLargestIntegerBelow
  refine ⟨fun a ha => ?_, fun s => ⟨?_, ?_⟩,
    fun a ha => ⟨?_, fun hle => ?_, fun hs h0 hlt => ?_, fun hs h0 hle => ?_⟩⟩
  · simp only [ffloor, classify_of_isNaN ha]
  · simp only [ffloor, classify_infinity]
  · exact ffloor_of_magnitude_zero (isFinite_zero s) (magnitude_zero s)
  · obtain ⟨g, hg, k, hk, hbounds⟩ := ffloor_isFloorOf ha
    exact ⟨g, k, hg, hk, hbounds⟩
  · obtain ⟨c, hc⟩ := exists_integer_of_le_magnitude hle
    exact ffloor_of_integer ha hc
  · rw [ffloor_below_one ha h0.ne' hs hlt, zero_false_eq]
  · have hone : 0 < 2 ^ 1074 := by positivity
    rw [ffloor_negative ha h0.ne' hs, ceil_eq (c := 1) hone (by omega) (by omega), hs, rne_minusOne]

end Sys2Proof.Machine
end

section
/-! PROOFS. The order of patterns is the order of their values, by the classes of the two operands (R88). -/

namespace Sys2Proof.Machine

/-- A NaN is ordered with nothing (R88). -/
theorem flt_nan {a b : Word} (h : isNaN a = true ∨ isNaN b = true) : flt a b = false := by
  obtain h | h := h
  · simp [flt, classify_of_isNaN h]
  · cases ha : classify a <;> simp [flt, classify_of_isNaN h, ha]

/-- Finite patterns are ordered as their exact values (R88). -/
theorem flt_finite {a b : Word} (ha : isFinite a = true) (hb : isFinite b = true) :
    flt a b = decide (signed (signBit a) (magnitude a) < signed (signBit b) (magnitude b)) := by
  simp only [flt, classify_of_isFinite ha, classify_of_isFinite hb]

/-- Minus infinity is below every finite value, plus infinity below none (R88). -/
theorem flt_infinity_finite (s : Bool) {b : Word} (hb : isFinite b = true) : flt (infinity s) b = s := by
  simp only [flt, classify_infinity, classify_of_isFinite hb]

/-- Every finite value is below plus infinity, none below minus infinity (R88). -/
theorem flt_finite_infinity {a : Word} (ha : isFinite a = true) (s : Bool) : flt a (infinity s) = !s := by
  simp only [flt, classify_infinity, classify_of_isFinite ha]

theorem flt_infinity_infinity (s t : Bool) : flt (infinity s) (infinity t) = (s && !t) := by
  simp only [flt, classify_infinity]

theorem infinity_true_ne_infinity_false : infinity true ≠ infinity false := by decide

/-- Minus infinity is below everything else that is no NaN (R88). -/
theorem flt_minusInfinity_iff {b : Word} (hb : isNaN b = false) :
    flt (infinity true) b = true ↔ b ≠ infinity true := by
  obtain h | h := isFinite_or_eq_infinity hb
  · simp [flt_infinity_finite true h, ne_infinity_of_isFinite h]
  · rw [h, flt_infinity_infinity]
    cases signBit b with
    | false => simp [infinity_true_ne_infinity_false.symm]
    | true => simp

/-- Everything else that is no NaN is below plus infinity (R88). -/
theorem flt_plusInfinity_iff {a : Word} (ha : isNaN a = false) :
    flt a (infinity false) = true ↔ a ≠ infinity false := by
  obtain h | h := isFinite_or_eq_infinity ha
  · simp [flt_finite_infinity h false, ne_infinity_of_isFinite h]
  · rw [h, flt_infinity_infinity]
    cases signBit a with
    | false => simp
    | true => simp [infinity_true_ne_infinity_false]

/-- Plus infinity is below nothing (R88). -/
theorem flt_plusInfinity_left (b : Word) : flt (infinity false) b = false := by
  cases h : isNaN b with
  | true => exact flt_nan (.inr h)
  | false =>
    obtain hb | hb := isFinite_or_eq_infinity h
    · exact flt_infinity_finite false hb
    · rw [hb, flt_infinity_infinity, Bool.false_and]

/-- Nothing is below minus infinity (R88). -/
theorem flt_minusInfinity_right (a : Word) : flt a (infinity true) = false := by
  cases h : isNaN a with
  | true => exact flt_nan (.inl h)
  | false =>
    obtain ha | ha := isFinite_or_eq_infinity h
    · exact flt_finite_infinity ha true
    · rw [ha, flt_infinity_infinity, Bool.not_true, Bool.and_false]

/-- The two zeros are not below one another (R88). -/
theorem flt_zero_zero (s t : Bool) : flt (zero s) (zero t) = false := by
  rw [flt_finite (isFinite_zero s) (isFinite_zero t), magnitude_zero, magnitude_zero, signed_zero, signed_zero,
    decide_eq_false (lt_irrefl 0)]

/-- Settles O20: by the classes of the two operands. -/
theorem orderedLessFollowsTheValues : Obligations.OrderedLessFollowsTheValues := by
  unfold Obligations.OrderedLessFollowsTheValues
  refine ⟨fun a b => flt_nan, fun a b ha hb => ?_, fun b => flt_minusInfinity_iff, fun a => flt_plusInfinity_iff,
    flt_plusInfinity_left, flt_minusInfinity_right, flt_zero_zero true false, flt_zero_zero false true⟩
  rw [flt_finite ha hb, decide_eq_true_iff]

end Sys2Proof.Machine
end

section
/-! PROOFS. The sum and the product in either order of operands, and the subtraction (R84 to R86). -/

namespace Sys2Proof.Machine

/-- The sum does not depend on the order of the operands (R85, R154). -/
theorem fadd_comm (a b : Word) : fadd a b = fadd b a := by
  unfold fadd
  cases classify a with
  | nan => cases classify b <;> rfl
  | inf s =>
    cases classify b with
    | nan => rfl
    | inf t => cases s <;> cases t <;> rfl
    | fin t n => rfl
  | fin s m =>
    cases classify b with
    | nan => rfl
    | inf t => rfl
    | fin t n =>
      have hzero : (n == 0 && m == 0 && t && s) = (m == 0 && n == 0 && s && t) := by
        rw [Bool.and_right_comm, Bool.and_comm (n == 0), Bool.and_right_comm]
      simp only [Int.add_comm (signed t n), hzero]

/-- The product does not depend on the order of the operands (R84, R154). -/
theorem fmul_comm (a b : Word) : fmul a b = fmul b a := by
  unfold fmul
  cases classify a with
  | nan => cases classify b <;> rfl
  | inf s =>
    cases classify b with
    | nan => rfl
    | inf t => simp only [Bool.xor_comm t]
    | fin t n => simp only [Bool.xor_comm t]
  | fin s m =>
    cases classify b with
    | nan => rfl
    | inf t => simp only [Bool.xor_comm t]
    | fin t n => simp only [Bool.xor_comm t, Nat.mul_comm n, or_comm (a := n = 0)]

@[simp] theorem signBit_negate (p : Word) : signBit (negate p) = !signBit p := by
  simp [signBit, negate]

@[simp] theorem expField_negate (p : Word) : expField (negate p) = expField p := by
  rw [expField, expField, negate, BitVec.extractLsb'_xor]
  simp

@[simp] theorem fracField_negate (p : Word) : fracField (negate p) = fracField p := by
  rw [fracField, fracField, negate, BitVec.extractLsb'_xor]
  simp

@[simp] theorem magnitude_negate (p : Word) : magnitude (negate p) = magnitude p := by
  simp only [magnitude, expField_negate, fracField_negate]

@[simp] theorem isFinite_negate (p : Word) : isFinite (negate p) = isFinite p := by
  simp only [isFinite, expField_negate]

/-- The exact cancellation of two finite summands, at least one of them not `-0`, is `+0` (R85). -/
theorem fadd_cancel {a b : Word} (ha : isFinite a = true) (hb : isFinite b = true)
    (h : signed (signBit a) (magnitude a) + signed (signBit b) (magnitude b) = 0)
    (hpos : signBit a = false ∨ signBit b = false ∨ magnitude b ≠ 0) : fadd a b = some 0 := by
  have hzero : (magnitude a == 0 && magnitude b == 0 && signBit a && signBit b) = false := by
    obtain h | h | h := hpos <;> simp [h]
  simp only [fadd, classify_of_isFinite ha, classify_of_isFinite hb, h, hzero, if_true, zero_false_eq]

/-- A finite value less itself is `+0` (R86). -/
theorem fsub_self {v : Word} (hv : isFinite v = true) : fsub v v = some 0 := by
  refine fadd_cancel hv (by rw [isFinite_negate, hv]) ?_ ?_
  · rw [signBit_negate, magnitude_negate, signed_not, Int.add_right_neg]
  · rw [signBit_negate]
    cases signBit v with
    | false => exact .inl rfl
    | true => exact .inr (.inl rfl)

/-- Settles O21: the subtraction is the addition by definition, and the sum and the product are symmetric. -/
theorem subtractionIsAdditionOfTheNegative : Obligations.SubtractionIsAdditionOfTheNegative :=
  ⟨fun _ _ => rfl, fun _ => fsub_self, by decide +kernel, fun a b => ⟨fadd_comm a b, fmul_comm a b⟩⟩

end Sys2Proof.Machine
end

section
/-! PROOFS. The seed constants (R91) and the drawn patterns (R92). -/

namespace Sys2Proof.Machine

theorem rne_piLiteral : rne false 314159265358979323846 (10 ^ 20) = 0x400921FB54442D18 := by decide +kernel

theorem rne_eLiteral : rne false 27182818284590452354 (10 ^ 19) = 0x4005BF0A8B145769 := by decide +kernel

/-- Settles O22: the literals are rounded and the constants read. -/
theorem seedConstantsAreTheNearestPatterns : Obligations.SeedConstantsAreTheNearestPatterns :=
  ⟨rne_piLiteral, rne_eLiteral, rfl, rfl, rfl, by decide +kernel, by decide +kernel, by decide +kernel⟩

/-- A NaN is the drawn pattern of its sign and its fraction (R92). -/
theorem exists_nanPattern_eq {p : Word} (h : isNaN p = true) : ∃ sg f, p = nanPattern sg f := by
  simp only [isNaN, Bool.and_eq_true, beq_iff_eq, bne_iff_ne] at h
  obtain ⟨he, hf⟩ := h
  have hlt := fracField_lt p
  refine ⟨BitVec.ofBool (signBit p), ⟨fracField p - 1, by omega⟩, ?_⟩
  have hs : (BitVec.ofBool (signBit p) == 1) = signBit p := by cases signBit p <;> rfl
  rw [nanPattern_eq, hs, ← he, Nat.sub_add_cancel (by omega), pattern_of_fields]

/-- Settles O23: a NaN is drawn from its own fields, and whatever is drawn is a NaN. -/
theorem drawnPatternsAreExactlyTheNaNs : Obligations.DrawnPatternsAreExactlyTheNaNs := by
  refine fun p => ⟨exists_nanPattern_eq, ?_⟩
  rintro ⟨sg, f, rfl⟩
  exact isNaN_nanPattern sg f

end Sys2Proof.Machine
end

section
/-! PROOFS. A zero of the seed recurrence comes from exact cancellation only (R83, R85, R99). -/

namespace Sys2Proof.Machine

/-- An exact value of at least one unit of 2^-1074 is not rounded to a zero: the least subnormal is nearer (R83). -/
theorem rne_ne_zero (sign : Bool) {num den : Nat} (hden : 0 < den) (h : den ≤ num * 2 ^ 1074) (t : Bool) :
    rne sign num den ≠ zero t := by
  intro hz
  cases Nat.lt_or_ge num ((2 ^ 54 - 1) * 2 ^ 970 * den) with
  | inl hlt =>
    have hnear := (rne_nearest sign hden hlt (pattern false 0 1)).1
    rw [hz, magnitude_zero, magnitude_pattern_zero false (by decide), Nat.zero_mul, one_mul, Nat.dist_zero_left,
      Nat.dist_eq_sub_of_le h] at hnear
    omega
  | inr hge =>
    rw [rne_eq_infinity sign hden hge] at hz
    exact ne_infinity_of_isFinite (isFinite_zero t) sign hz.symm

/-- A sum of finite patterns whose exact value is not 0 is not a zero (R85). -/
theorem fadd_ne_zero {a b : Word} (ha : isFinite a = true) (hb : isFinite b = true)
    (h : signed (signBit a) (magnitude a) + signed (signBit b) (magnitude b) ≠ 0) (t : Bool) :
    fadd a b ≠ some (zero t) := by
  rw [fadd_finite ha hb h, Ne, Option.some.injEq]
  exact rne_ne_zero _ (by positivity) (Nat.le_mul_of_pos_left _ (Int.natAbs_pos.2 h)) t

/-- Two data of which the second is not 0 cancel exactly when the first is the negative of the second (R86). -/
theorem signed_add_eq_zero_iff {a b : Word} (hb : magnitude b ≠ 0) :
    signed (signBit a) (magnitude a) + signed (signBit b) (magnitude b) = 0 ↔ a = negate b := by
  constructor
  · intro h
    obtain ⟨hs, hm⟩ := opposite_of_signed_add_eq_zero hb h
    exact eq_of_signBit_of_magnitude (by rw [hs, signBit_negate]) (by rw [hm, magnitude_negate])
  · rintro rfl
    rw [signBit_negate, magnitude_negate, signed_not, Int.add_left_neg]

/-- With a finite summand that is not 0 the sum is a zero exactly on exact cancellation, and then it is `+0` (R85). -/
theorem fadd_eq_zero_iff {a b : Word} (hb : isFinite b = true) (hb0 : magnitude b ≠ 0) (t : Bool) :
    fadd a b = some (zero t) ↔ t = false ∧ a = negate b := by
  constructor
  · intro h
    have hnan : isNaN a = false := by
      by_contra hn
      rw [fadd_nan (.inl (Bool.eq_true_of_not_eq_false hn))] at h
      cases h
    obtain ha | ha := isFinite_or_eq_infinity hnan
    · have hcancel : signed (signBit a) (magnitude a) + signed (signBit b) (magnitude b) = 0 := by
        by_contra hne
        exact fadd_ne_zero ha hb hne t h
      rw [fadd_cancel ha hb hcancel (.inr (.inr hb0)), ← zero_false_eq, Option.some.injEq] at h
      exact ⟨zero_injective h.symm, (signed_add_eq_zero_iff hb0).1 hcancel⟩
    · rw [ha] at h
      simp only [fadd, classify_infinity, classify_of_isFinite hb, Option.some.injEq] at h
      exact absurd h.symm (ne_infinity_of_isFinite (isFinite_zero t) _)
  · rintro ⟨rfl, rfl⟩
    exact fadd_cancel (by rw [isFinite_negate, hb]) hb ((signed_add_eq_zero_iff hb0).2 rfl) (.inr (.inr hb0))

/-- The recurrence gives a zero exactly where the product is the negative of the addend, and then `+0` (R99). -/
theorem recurrence_eq_zero_iff (d : Word) (t : Bool) :
    recurrence d = some (zero t) ↔ t = false ∧ fmul d pi64 = some (negate e64) := by
  have he : isFinite e64 = true := by decide +kernel
  have he0 : magnitude e64 ≠ 0 := by decide +kernel
  simp only [recurrence, Option.bind_eq_some_iff, fadd_eq_zero_iff he he0]
  constructor
  · rintro ⟨p, hp, ht, rfl⟩
    exact ⟨ht, hp⟩
  · rintro ⟨ht, hp⟩
    exact ⟨_, hp, ht, rfl⟩

theorem negate_e64_eq : negate e64 = 0xC005BF0A8B145769 := rfl

/-- Once infinite the recurrence stays at that infinity: the multiplier is positive, and the addend is finite (R99). -/
theorem recurrence_infinity (s : Bool) : recurrence (infinity s) = some (infinity s) := by
  obtain ⟨hfin, hsign, h0⟩ : isFinite pi64 = true ∧ signBit pi64 = false ∧ magnitude pi64 ≠ 0 := by decide +kernel
  have he : isFinite e64 = true := by decide +kernel
  have hproduct : fmul (infinity s) pi64 = some (infinity s) := by
    simp only [fmul, classify_infinity, classify_of_isFinite hfin, hsign, if_neg h0, Bool.xor_false]
  rw [recurrence, hproduct, Option.bind_some]
  simp only [fadd, classify_infinity, classify_of_isFinite he]

/-- Settles O24: no step of the recurrence makes a NaN, and a zero comes from exact cancellation only. -/
theorem recurrenceNeverYieldsNaN : Obligations.RecurrenceNeverYieldsNaN := by
  refine ⟨fun d => recurrence_of_not_isNaN, recurrence_infinity, fun d _ => ⟨?_, fun h => ?_⟩⟩
  · rw [← zero_false_eq, ← negate_e64_eq, recurrence_eq_zero_iff, and_iff_right rfl]
  · rw [← zero_true_eq, recurrence_eq_zero_iff] at h
    obtain ⟨ht, -⟩ := h
    cases ht

end Sys2Proof.Machine
end

section
/-! PROOFS. SEED (R100 to R111): the chain of the recurrence, the guard in plain arithmetic, the registers the warm-up
leaves, and what the command answers. -/

namespace Sys2Proof.Machine

/-! ### The guard -/

/-- The greatest mask is that of slot 3 (R67, R103). -/
theorem seedMask_le (i : Fin 4) : 2 ^ (64 - (slot i).k) ≤ 2 ^ 17 := by
  fin_cases i <;> decide

theorem ult64_seedMask_iff (i : Fin 4) (u : Word) :
    ult64 u (seedMask i) = true ↔ u.toNat < 2 ^ (64 - (slot i).k) := by
  rw [ult64, BitVec.ult, decide_eq_true_iff, seedMask_toNat]

/-- The guard in plain arithmetic: it does not wrap (R106). -/
theorem guardWord_toNat (i : Fin 4) (u : Word) : (guardWord i u).toNat =
    if u.toNat < 2 ^ (64 - (slot i).k) then u.toNat + 2 ^ (64 - (slot i).k) else u.toNat := by
  have hmask := seedMask_le i
  simp only [guardWord, ult64_seedMask_iff]
  split
  · next hlt => rw [add64, BitVec.toNat_add, seedMask_toNat, Nat.mod_eq_of_lt (by omega)]
  · rfl

/-- The guard of a slot is the one of its dead width (R106). -/
theorem guardWord_eq_guarded (i : Fin 4) (u : Word) : guardWord i u = guarded (64 - (slot i).k) u := by
  have hmask : seedMask i = BitVec.ofNat 64 (2 ^ (64 - (slot i).k)) := by
    rw [← seedMask_toNat, BitVec.ofNat_toNat, BitVec.setWidth_eq]
  simp only [guardWord, guarded, ult64_seedMask_iff, add64]
  rw [hmask]

/-- Settles O28: the guarded word in plain arithmetic, and its live region is not zero, which is the bound below. -/
theorem guardLeavesALiveRegion : Obligations.GuardLeavesALiveRegion := by
  intro i u
  have hlive := liveRegion_guardWord_ne_zero i u
  exact ⟨guardWord_toNat i u, liveRegion_ne_zero_iff.1 hlive, hlive⟩

/-! ### The chain and the registers it leaves -/

/-- One turn of the chain is one application of the recurrence, and gives a pattern (R104). -/
theorem chainsTo_iff {d d' : Word} : ChainsTo d d' ↔ recurrence d = some d' :=
  Option.bind_eq_some_iff.symm

/-- The values `d` of the four slots from an operand, each from the one before it (R102, R104). -/
structure SeedChain (a d0 d1 d2 d3 : Word) : Prop where
  slot0 : recurrence a = some d0
  slot1 : recurrence d0 = some d1
  slot2 : recurrence d1 = some d2
  slot3 : recurrence d2 = some d3

/-- A finite operand has a chain: no NaN arises in it (R111). -/
theorem exists_seedChain {a : Word} (ha : isFinite a = true) : ∃ d0 d1 d2 d3, SeedChain a d0 d1 d2 d3 := by
  obtain ⟨d0, h0, n0⟩ := recurrence_of_not_isNaN (isNaN_of_isFinite ha)
  obtain ⟨d1, h1, n1⟩ := recurrence_of_not_isNaN n0
  obtain ⟨d2, h2, n2⟩ := recurrence_of_not_isNaN n1
  obtain ⟨d3, h3, -⟩ := recurrence_of_not_isNaN n2
  exact ⟨d0, d1, d2, d3, h0, h1, h2, h3⟩

/-- The registers SEED commits for the four values of a chain: guarded, then warmed up (R106, R108). -/
def seededRegs (d0 d1 d2 d3 : Word) : Regs :=
  warmUp warmUpSteps ⟨guardWord 0 d0, guardWord 1 d1, guardWord 2 d2, guardWord 3 d3⟩

theorem SeedChain.warmUp_deriveRegs {a d0 d1 d2 d3 : Word} (h : SeedChain a d0 d1 d2 d3) (draw : Word) :
    warmUp warmUpSteps (deriveRegs draw a) = seededRegs d0 d1 d2 d3 := by
  simp only [deriveRegs, seededRegs, h.slot0, h.slot1, h.slot2, h.slot3, settle_some]

/-- The registers of a chain as ten whole steps from the guarded words, at the dead widths of the slots (R67, R108). -/
theorem seededRegs_eq_iterate (d0 d1 d2 d3 : Word) : seededRegs d0 d1 d2 d3 =
    (fun r => (advance r).2)^[10] ⟨guarded 1 d0, guarded 6 d1, guarded 9 d2, guarded 17 d3⟩ := by
  rw [seededRegs, warmUp_eq_iterate]
  simp only [guardWord_eq_guarded]
  rfl

/-! ### What SEED answers -/

/-- A finite operand is taken (R101, R109). -/
theorem exec_seed_of_isFinite {a : Word} (ha : isFinite a = true) (b : Word) (s : State) :
    exec (.seed a b) s =
      .next ((s.writeRegs (warmUp warmUpSteps (deriveRegs s.nanDraw a))).answer .ok 0) :=
  if_pos ha

/-- Any other is rejected, and only the response is written (R101). -/
theorem exec_seed_of_not_isFinite {a : Word} (ha : ¬ isFinite a = true) (b : Word) (s : State) :
    exec (.seed a b) s = .next (s.answer (.raised .invalidSeed) 0) :=
  if_neg ha

/-- SEED commits the registers of its operand's chain (R109). -/
theorem SeedChain.exec_seed {a d0 d1 d2 d3 : Word} (h : SeedChain a d0 d1 d2 d3) (ha : isFinite a = true) (b : Word)
    (s : State) : exec (.seed a b) s = .next ((s.writeRegs (seededRegs d0 d1 d2 d3)).answer .ok 0) := by
  rw [exec_seed_of_isFinite ha, h.warmUp_deriveRegs]

theorem SeedChain.regs_of_exec_seed {a b d0 d1 d2 d3 : Word} {s t : State} (h : SeedChain a d0 d1 d2 d3)
    (ha : isFinite a = true) (ht : exec (.seed a b) s = .next t) : t.regs = some (seededRegs d0 d1 d2 d3) := by
  rw [h.exec_seed ha] at ht
  cases ht
  rfl

/-- Settles O25: the chain of a finite operand, and the registers it leaves. -/
theorem seedDerivesGuardsAndWarmsUp : Obligations.SeedDerivesGuardsAndWarmsUp := by
  intro a b s ha
  obtain ⟨d0, d1, d2, d3, hchain⟩ := exists_seedChain ha
  refine ⟨d0, d1, d2, d3, chainsTo_iff.2 hchain.slot0, chainsTo_iff.2 hchain.slot1, chainsTo_iff.2 hchain.slot2,
    chainsTo_iff.2 hchain.slot3, ?_⟩
  rw [hchain.exec_seed ha, seededRegs_eq_iterate]
  rfl

/-- Settles O26: the check is `isFinite` of the operand, and both answers are known. -/
theorem seedRejectsNonFiniteOperands : Obligations.SeedRejectsNonFiniteOperands := by
  intro a b s
  have hfin : isFinite a = true ↔ expField a ≠ 2047 := bne_iff_ne
  constructor
  · intro h
    exact exec_seed_of_not_isFinite (fun ha => hfin.1 ha h) b s
  · intro h
    exact ⟨_, exec_seed_of_isFinite (hfin.2 h) b s, rfl, rfl⟩

/-- Settles O27: both states commit the registers of the one chain of the operand. -/
theorem seedDependsOnItsOperandOnly : Obligations.SeedDependsOnItsOperandOnly := by
  intro a b b' s s' ha
  obtain ⟨d0, d1, d2, d3, hchain⟩ := exists_seedChain ha
  exact ⟨_, _, hchain.exec_seed ha b s, hchain.exec_seed ha b' s', rfl, rfl, rfl⟩

/-! ### Chains of particular seeds -/

theorem isFinite_e64 : isFinite e64 = true := by decide +kernel

/-- An infinity and a finite value add to that infinity (R85). -/
theorem fadd_infinity_finite (s : Bool) {b : Word} (hb : isFinite b = true) :
    fadd (infinity s) b = some (infinity s) := by
  simp only [fadd, classify_infinity, classify_of_isFinite hb]

/-- An overflow of the first product makes the whole chain that infinity (R111). -/
theorem seedChain_of_fmul_eq_infinity {a : Word} {s : Bool} (h : fmul a pi64 = some (infinity s)) :
    SeedChain a (infinity s) (infinity s) (infinity s) (infinity s) := by
  have hfirst : recurrence a = some (infinity s) := by
    rw [recurrence, h, Option.bind_some, fadd_infinity_finite s isFinite_e64]
  exact ⟨hfirst, recurrence_infinity s, recurrence_infinity s, recurrence_infinity s⟩

/-- The chain from `e` on, which every seed lost against the addend joins (R111). -/
theorem seedChain_of_recurrence_eq_e64 {a : Word} (h : recurrence a = some e64) :
    SeedChain a e64 0x4026841AAE0AEA4E 0x40430B0E93A94B67 0x405E97B10AE19358 :=
  ⟨h, by decide +kernel, by decide +kernel, by decide +kernel⟩

/-- The trace of the golden seed (R113). -/
theorem seedChain_golden : SeedChain 0x41D9A90EFE800000
    0x41F4275398160116 0x420FA8404D3586C7 0x4228DD1061BC58CD 0x4243871C0CB30DF7 :=
  ⟨by decide +kernel, by decide +kernel, by decide +kernel, by decide +kernel⟩

/-- Settles O30: the three chains are known from the premises, and their warm-ups are run. -/
theorem extremeSeedsCoincide : Obligations.ExtremeSeedsCoincide := by
  refine fun a b s t ha ht => ⟨fun h => ?_, fun h => ?_, fun h => ?_⟩
  · rw [(seedChain_of_fmul_eq_infinity h).regs_of_exec_seed ha ht]
    decide +kernel
  · rw [(seedChain_of_fmul_eq_infinity h).regs_of_exec_seed ha ht]
    decide +kernel
  · rw [(seedChain_of_recurrence_eq_e64 h).regs_of_exec_seed ha ht]
    decide +kernel

/-- Settles O31: the trace of R113, and its warm-up. -/
theorem goldenSeedLeavesTheGoldenVector : Obligations.GoldenSeedLeavesTheGoldenVector := by
  intro b s
  have hwarm : seededRegs 0x41F4275398160116 0x420FA8404D3586C7 0x4228DD1061BC58CD 0x4243871C0CB30DF7 =
      ⟨0x9C273D7EC3EE4C37, 0xE8D843E1505FBE3D, 0xB0A462974D1A8C4F, 0xF86E3D365E5EBD4B⟩ := by decide +kernel
  rw [seedChain_golden.exec_seed (by decide), hwarm]
  rfl

end Sys2Proof.Machine
end

section
/-! PROOFS. A result of the recurrence that is not `+0` is at least 2^-51 in magnitude, by the grid the product lies on
when it nearly cancels the addend (R83, R85), and so the guard fires on `+0` only (R112). -/

namespace Sys2Proof.Machine

/-- Rounding does not go below a pattern that the exact value has reached (R83). -/
theorem magnitude_le_rne {sign : Bool} {num den : Nat} (hden : 0 < den) {q : Word}
    (hfin : isFinite (rne sign num den) = true) (h : magnitude q * den ≤ num * 2 ^ 1074) :
    magnitude q ≤ magnitude (rne sign num den) := by
  have hlimit : num < (2 ^ 54 - 1) * 2 ^ 970 * den := by
    by_contra! hge
    exact ne_infinity_of_isFinite hfin sign (rne_eq_infinity sign hden hge)
  have hnear := (rne_nearest sign hden hlimit q).1
  by_contra! hlt
  have hbelow := Nat.mul_lt_mul_of_pos_right hlt hden
  rw [Nat.dist_eq_sub_of_le (hbelow.le.trans h), Nat.dist_eq_sub_of_le h] at hnear
  omega

theorem natAbs_signed (s : Bool) (m : Nat) : (signed s m).natAbs = m := by
  cases s with
  | false => exact Int.natAbs_natCast m
  | true => rw [signed_true, Int.natAbs_neg, Int.natAbs_natCast]

theorem natCast_dvd_signed {c m : Nat} (s : Bool) (h : c ∣ m) : (c : Int) ∣ signed s m := by
  rwa [Int.natCast_dvd, natAbs_signed]

/-- Two finite values, the second past `2^(v + 52)` units by a step `2^v` of the grid there, cancel exactly or leave a
step of that grid: the first is on the grid, or it is too small to reach the second (R81, R112). -/
theorem grid_le_natAbs_signed_add {a b : Word} {v : Nat} (hb : 2 ^ (v + 52) + 2 ^ v ≤ magnitude b)
    (h : signed (signBit a) (magnitude a) + signed (signBit b) (magnitude b) ≠ 0) :
    2 ^ v ≤ (signed (signBit a) (magnitude a) + signed (signBit b) (magnitude b)).natAbs := by
  cases Nat.lt_or_ge (magnitude a) (2 ^ (v + 52)) with
  | inl hsmall =>
    have ha := natAbs_signed (signBit a) (magnitude a)
    have hb' := natAbs_signed (signBit b) (magnitude b)
    omega
  | inr hlarge =>
    have hgrid {p : Word} (hp : 2 ^ (v + 52) ≤ magnitude p) : 2 ^ v ∣ magnitude p :=
      two_pow_dvd_magnitude (Nat.le_add_left 52 v) hp
    have hda := natCast_dvd_signed (signBit a) (hgrid hlarge)
    have hdb := natCast_dvd_signed (signBit b) (hgrid ((Nat.le_add_right _ _).trans hb))
    exact Nat.le_of_dvd (Int.natAbs_pos.2 h) (Int.natCast_dvd.1 (Int.dvd_add hda hdb))

/-- A finite sum with a finite summand has the other one finite (R85). -/
theorem isFinite_of_fadd {a b c : Word} (hb : isFinite b = true) (h : fadd a b = some c) (hc : isFinite c = true) :
    isFinite a = true := by
  have hnan : isNaN a = false := by
    by_contra hn
    rw [fadd_nan (.inl (Bool.eq_true_of_not_eq_false hn))] at h
    cases h
  obtain ha | ha := isFinite_or_eq_infinity hnan
  · exact ha
  · rw [ha, fadd_infinity_finite _ hb, Option.some.injEq] at h
    exact absurd h.symm (ne_infinity_of_isFinite hc _)

/-- The addend is past `2` by more than a step of the grid at `2`, which is `2^-51` (R91). -/
theorem e64_past_two : 2 ^ (1023 + 52) + 2 ^ 1023 ≤ magnitude e64 := by decide +kernel

/-- The pattern of `2^-51` (R80). -/
theorem magnitude_two_pow_minus_51 : magnitude 0x3CC0000000000000 = 2 ^ 1023 := by decide +kernel

/-- A finite result of the recurrence other than `+0` is at least 2^-51 in magnitude (R112). -/
theorem le_magnitude_of_recurrence {d d' : Word} (h : recurrence d = some d') (hfin : isFinite d' = true)
    (h0 : d' ≠ 0) : 2 ^ 1023 ≤ magnitude d' := by
  have he0 : magnitude e64 ≠ 0 := by decide +kernel
  obtain ⟨p, -, hsum⟩ := Option.bind_eq_some_iff.1 h
  have hp := isFinite_of_fadd isFinite_e64 hsum hfin
  have hne : signed (signBit p) (magnitude p) + signed (signBit e64) (magnitude e64) ≠ 0 := by
    intro hcancel
    rw [fadd_cancel hp isFinite_e64 hcancel (.inr (.inr he0)), Option.some.injEq] at hsum
    exact h0 hsum.symm
  have hgrid := grid_le_natAbs_signed_add e64_past_two hne
  rw [fadd_finite hp isFinite_e64 hne, Option.some.injEq] at hsum
  subst hsum
  rw [← magnitude_two_pow_minus_51] at hgrid
  have hround := magnitude_le_rne (by positivity) hfin (Nat.mul_le_mul_right (2 ^ 1074) hgrid)
  rwa [magnitude_two_pow_minus_51] at hround

/-- A word below every normal pattern is a finite pattern of which the word is the magnitude (R80, R81). -/
theorem magnitude_of_toNat_lt {p : Word} (h : p.toNat < 2 ^ 52) : isFinite p = true ∧ magnitude p = p.toNat := by
  have he : expField p = 0 := by
    rw [expField_eq]
    omega
  refine ⟨by rw [isFinite, he]; rfl, ?_⟩
  rw [magnitude, if_pos he, fracField_eq, Nat.mod_eq_of_lt h]

/-- A result of the recurrence below 2^52 as a word is `+0`: it is not a subnormal (R112). -/
theorem eq_zero_of_recurrence_of_toNat_lt {d d' : Word} (h : recurrence d = some d') (hlt : d'.toNat < 2 ^ 52) :
    d' = 0 := by
  obtain ⟨hfin, hmag⟩ := magnitude_of_toNat_lt hlt
  by_contra h0
  have hle := le_magnitude_of_recurrence h hfin h0
  rw [hmag] at hle
  exact hlt.not_ge ((pow_le_pow_right₀ one_le_two (by decide)).trans hle)

theorem guardWord_zero_toNat (i : Fin 4) : (guardWord i 0).toNat = 2 ^ (64 - (slot i).k) := by
  have hzero : (0 : Word).toNat = 0 := rfl
  rw [guardWord_toNat, hzero, if_pos (by positivity), Nat.zero_add]

/-- Settles O29: the bound on the recurrence leaves `+0` alone below a mask, and the one seed is evaluated. -/
theorem guardFiresOnlyOnPlusZero : Obligations.GuardFiresOnlyOnPlusZero := by
  refine ⟨fun d d' => le_magnitude_of_recurrence, fun d d' i h hlt => ?_, by decide +kernel, by decide,
    by decide +kernel⟩
  have hmask := seedMask_le i
  obtain rfl := eq_zero_of_recurrence_of_toNat_lt h (by omega)
  exact ⟨rfl, guardWord_zero_toNat i⟩

end Sys2Proof.Machine
end

section
/-! PROOFS. The stepper (42_stepper): the slot update bit by bit, as a linear map of the live regions and as a bijection
of them (R121, R130, R131), and STEP (R126). -/

namespace Sys2Proof.Machine

/-! ### The slot update bit by bit -/

/-- The two terms of the slot update share no bit: the first ends where the second begins (R121). -/
theorem gen_terms_disjoint {k q s : Nat} (z : Word) (hqs : q + s ≤ k) (hk : k ≤ 63) :
    shr64 (shl64 z q ^^^ z) (k - s) &&& shl64 (z &&& shl64 allOnes (64 - k)) s = 0 := by
  refine BitVec.eq_of_getLsbD_eq fun t ht => ?_
  have hzero : (0 : Word).getLsbD t = false := BitVec.getLsbD_zero
  rw [BitVec.getLsbD_and, getLsbD_gen_lowTerm z hqs hk, getLsbD_gen_highTerm z hk ht, hzero]
  split
  · exact Bool.and_false _
  · exact Bool.false_and _

/-- Settles O32: the expression is the definition's, its terms are disjoint, and so a bit comes from one of them. -/
theorem slotUpdateBitByBit : Obligations.SlotUpdateBitByBit := by
  intro i z
  obtain ⟨-, hqs, hk, -⟩ := slot_bounds i
  exact ⟨rfl, gen_terms_disjoint z hqs hk, fun _ ht => getLsbD_gen i z ht⟩

/-! ### Linearity, and the live regions -/

/-- Each bit of the slot update is a bit or the xor of two bits, at places that do not depend on the word (R130). -/
theorem gen_xor (i : Fin 4) (x y : Word) : gen (slot i) (x ^^^ y) = gen (slot i) x ^^^ gen (slot i) y := by
  refine BitVec.eq_of_getLsbD_eq fun t ht => ?_
  rw [BitVec.getLsbD_xor, getLsbD_gen i _ ht, getLsbD_gen i _ ht, getLsbD_gen i _ ht]
  split
  · simp only [BitVec.getLsbD_xor, Bool.xor_assoc, Bool.xor_left_comm]
  · exact BitVec.getLsbD_xor

theorem gen_eq_zero_of_liveRegion_eq_zero {i : Fin 4} {z : Word} (h : liveRegion i z = 0) : gen (slot i) z = 0 := by
  rw [gen_congr_of_liveRegion_eq (h.trans (liveRegion_zero i).symm), gen_zero]

/-- Settles O34: linearity holds bit by bit, and the update reads no dead bit. -/
theorem slotUpdateIsLinearAndDropsDeadBits : Obligations.SlotUpdateIsLinearAndDropsDeadBits := fun i x y =>
  ⟨gen_xor i x y, fun hx => gen_eq_zero_of_liveRegion_eq_zero (Nat.div_eq_of_lt hx), gen_congr_of_liveRegion_eq⟩

/-- A live region is a word of `k` bits (R30). -/
theorem liveRegion_lt (i : Fin 4) (z : Word) : liveRegion i z < 2 ^ (slot i).k := by
  obtain ⟨-, -, hk, -⟩ := slot_bounds i
  rw [liveRegion, Nat.div_lt_iff_lt_mul (by positivity), ← pow_add, Nat.add_sub_cancel' (by omega)]
  exact z.isLt

/-- The word with the live region `n` of slot `i` and every dead bit 0. -/
def wordOfLive (i : Fin 4) (n : Nat) : Word := BitVec.ofNat 64 (n * 2 ^ (64 - (slot i).k))

theorem liveRegion_wordOfLive {i : Fin 4} {n : Nat} (hn : n < 2 ^ (slot i).k) : liveRegion i (wordOfLive i n) = n := by
  obtain ⟨-, -, hk, -⟩ := slot_bounds i
  have hfits : n * 2 ^ (64 - (slot i).k) < 2 ^ 64 :=
    calc n * 2 ^ (64 - (slot i).k)
      _ < 2 ^ (slot i).k * 2 ^ (64 - (slot i).k) := Nat.mul_lt_mul_of_pos_right hn (by positivity)
      _ = 2 ^ 64 := by rw [← pow_add, Nat.add_sub_cancel' (by omega)]
  rw [liveRegion, wordOfLive, BitVec.toNat_ofNat, Nat.mod_eq_of_lt hfits, Nat.mul_div_cancel _ (by positivity)]

/-- The slot update as a map of the `k`-bit words: from a live region to the one it gives (R131). -/
def genLive (i : Fin 4) (n : Fin (2 ^ (slot i).k)) : Fin (2 ^ (slot i).k) :=
  ⟨liveRegion i (gen (slot i) (wordOfLive i n)), liveRegion_lt i _⟩

theorem genLive_injective (i : Fin 4) : Function.Injective (genLive i) := by
  intro m n h
  have hlive := liveRegion_eq_of_gen (Fin.val_eq_of_eq h)
  rw [liveRegion_wordOfLive m.isLt, liveRegion_wordOfLive n.isLt] at hlive
  exact Fin.ext hlive

/-- Settles O35: the live region comes back from its image, and an injective map of the finitely many `k`-bit words is
onto. -/
theorem slotUpdateIsABijectionOfLiveRegions : Obligations.SlotUpdateIsABijectionOfLiveRegions := by
  refine fun i => ⟨fun _ => gen_eq_zero_of_liveRegion_eq_zero, fun _ _ => liveRegion_eq_of_gen, fun n hn => ?_⟩
  obtain ⟨m, hm⟩ := Finite.surjective_of_injective (genLive_injective i) ⟨n, hn⟩
  exact ⟨wordOfLive i m, congrArg Fin.val hm⟩

/-! ### STEP -/

/-- The formula of slot 0 (R122). -/
theorem gen_slot_zero (z : Word) : gen (slot 0) z =
    (((z <<< 31) ^^^ z) >>> 45) ^^^ ((z &&& 0xFFFFFFFFFFFFFFFE) <<< 18) := rfl

/-- The formula of slot 1 (R123). -/
theorem gen_slot_one (z : Word) : gen (slot 1) z =
    (((z <<< 19) ^^^ z) >>> 30) ^^^ ((z &&& 0xFFFFFFFFFFFFFFC0) <<< 28) := rfl

/-- The formula of slot 2 (R124). -/
theorem gen_slot_two (z : Word) : gen (slot 2) z =
    (((z <<< 24) ^^^ z) >>> 48) ^^^ ((z &&& 0xFFFFFFFFFFFFFE00) <<< 7) := rfl

/-- The formula of slot 3 (R125). -/
theorem gen_slot_three (z : Word) : gen (slot 3) z =
    (((z <<< 21) ^^^ z) >>> 39) ^^^ ((z &&& 0xFFFFFFFFFFFE0000) <<< 8) := rfl

/-- STEP on a seeded block commits the registers of one step and answers its combined word (R120, R126). -/
theorem exec_step_of_regs {s : State} {r : Regs} (h : s.regs = some r) (a b : Word) :
    exec (.step a b) s = .next ((s.writeRegs (advance r).2).answer .ok (zext256 (advance r).1)) :=
  whenSeeded_some h

/-- Settles O33: each slot's update is its formula, and STEP commits and joins the four. -/
theorem stepUpdatesTheFourSlots : Obligations.StepUpdatesTheFourSlots := by
  intro a b s r hr
  have hadvance := advance_eq r
  rw [gen_slot_zero, gen_slot_one, gen_slot_two, gen_slot_three] at hadvance
  exact ⟨congrArg Prod.snd hadvance, by rw [exec_step_of_regs hr, hadvance]; rfl⟩

end Sys2Proof.Machine
end

section
/-! PROOFS. The extractor (43_extractor): the pattern formula of R144, the exact difference that gives the fraction
(R142, R143), and what FRAC and RAND0 answer. -/

namespace Sys2Proof.Machine

/-! ### The pattern formula -/

/-- The exponent and fraction fields side by side are the pattern of sign 0 (R80). -/
theorem ofNat_fields_eq_pattern {e f : Nat} (he : e < 2048) (hf : f < 2 ^ 52) :
    BitVec.ofNat 64 (e <<< 52 ||| f) = pattern false e f := by
  apply BitVec.eq_of_toNat_eq
  rw [pattern_toNat, BitVec.toNat_ofNat, ← Nat.shiftLeft_add_eq_or_of_lt hf, Nat.shiftLeft_eq, Bool.toNat_false]
  omega

theorem fractionPattern_zero : fractionPattern 0 = 0 := rfl

section
variable {j : Nat}

/-- Below 2^52 the leading bit is one of 52. -/
theorem log2_lt_of_lt_two_pow_52 (h0 : j ≠ 0) (hj : j < 2 ^ 52) : Nat.log2 j < 52 := (Nat.log2_lt h0).2 hj

/-- The bits under the leading one, shifted up to the binary point: with the hidden bit they are `j` itself, on the grid
of its exponent (R144). -/
theorem hidden_bit_add_shifted (h0 : j ≠ 0) (hj : j < 2 ^ 52) :
    2 ^ 52 + (j - 2 ^ Nat.log2 j) * 2 ^ (52 - Nat.log2 j) = j * 2 ^ (52 - Nat.log2 j) := by
  have hlog := log2_lt_of_lt_two_pow_52 h0 hj
  rw [two_pow_eq_mul (Nat.log2 j) (52 - Nat.log2 j) 52 (by omega), ← Nat.add_mul,
    Nat.add_sub_cancel' (Nat.log2_self_le h0)]

/-- The shifted bits fit the fraction field (R144). -/
theorem shifted_lt (h0 : j ≠ 0) (hj : j < 2 ^ 52) :
    (j - 2 ^ Nat.log2 j) * 2 ^ (52 - Nat.log2 j) < 2 ^ 52 := by
  have hlog := log2_lt_of_lt_two_pow_52 h0 hj
  have hrest : j - 2 ^ Nat.log2 j < 2 ^ Nat.log2 j := by
    have : j < 2 ^ (Nat.log2 j + 1) := Nat.lt_log2_self
    omega
  rw [two_pow_eq_mul (Nat.log2 j) (52 - Nat.log2 j) 52 (by omega)]
  exact Nat.mul_lt_mul_of_pos_right hrest (by positivity)

/-- The fields the formula writes (R144). -/
theorem fractionPattern_eq_pattern (h0 : j ≠ 0) (hj : j < 2 ^ 52) :
    fractionPattern j =
      pattern false (970 + Nat.log2 j + 1) ((j - 2 ^ Nat.log2 j) * 2 ^ (52 - Nat.log2 j)) := by
  have hlog := log2_lt_of_lt_two_pow_52 h0 hj
  rw [fractionPattern, if_neg h0, Nat.shiftLeft_eq (j - 2 ^ Nat.log2 j),
    ofNat_fields_eq_pattern (by omega) (shifted_lt h0 hj), Nat.add_right_comm]

/-- The formula writes a finite pattern of sign 0 with the value `j * 2^-52` (R143, R144). -/
theorem fractionPattern_spec (hj : j < 2 ^ 52) :
    isFinite (fractionPattern j) = true ∧ signBit (fractionPattern j) = false ∧
      magnitude (fractionPattern j) = j * 2 ^ 1022 := by
  by_cases h0 : j = 0
  · rw [h0, fractionPattern_zero, ← zero_false_eq, magnitude_zero, Nat.zero_mul]
    exact ⟨isFinite_zero false, signBit_pattern .., rfl⟩
  · have hlog := log2_lt_of_lt_two_pow_52 h0 hj
    rw [fractionPattern_eq_pattern h0 hj]
    refine ⟨isFinite_pattern (by omega), signBit_pattern .., ?_⟩
    rw [magnitude_pattern_succ false (by omega) (shifted_lt h0 hj), hidden_bit_add_shifted h0 hj, mul_assoc,
      ← two_pow_eq_mul (52 - Nat.log2 j) (970 + Nat.log2 j) 1022 (by omega)]

end

/-! ### The difference `d1 - 1.0` -/

/-- A non-zero exact sum that a finite pattern holds is that pattern (R83, R85). -/
theorem fadd_eq_of_value {a b q : Word} (ha : isFinite a = true) (hb : isFinite b = true) (hq : isFinite q = true)
    (hq0 : magnitude q ≠ 0)
    (h : signed (signBit a) (magnitude a) + signed (signBit b) (magnitude b) = signed (signBit q) (magnitude q)) :
    fadd a b = some q := by
  have hsign : decide (signed (signBit q) (magnitude q) < 0) = signBit q := by
    cases signBit q with
    | false => exact decide_eq_false (by rw [signed_false]; omega)
    | true => exact decide_eq_true (by rw [signed_true]; omega)
  have hne : signed (signBit q) (magnitude q) ≠ 0 := by
    rw [← Int.natAbs_ne_zero, natAbs_signed]
    exact hq0
  rw [fadd_finite ha hb (h ▸ hne), h, natAbs_signed, hsign, rne_eq_of_magnitude hq (by positivity) rfl]

theorem signBit_mantissaPattern (c : Word) : signBit (mantissaPattern c) = false := by
  simp [signBit, mantissaPattern, mant52, one64]

/-- The mask keeps the low 52 bits of the word (R141). -/
theorem fracField_mantissaPattern (c : Word) : fracField (mantissaPattern c) = c.toNat % 2 ^ 52 := by
  have h : (mantissaPattern c).extractLsb' 0 52 = c.extractLsb' 0 52 := by
    rw [mantissaPattern, BitVec.extractLsb'_or, BitVec.extractLsb'_and]
    have hmask : mant52.extractLsb' 0 52 = BitVec.allOnes 52 := by decide
    have hone : one64.extractLsb' 0 52 = 0#52 := by decide
    rw [hmask, hone, BitVec.and_allOnes, BitVec.or_zero]
  rw [fracField, h]
  exact fracField_eq c

/-- The fields of `d1` (R141). -/
theorem mantissaPattern_eq_pattern (c : Word) :
    mantissaPattern c = pattern false (1022 + 1) (c.toNat % 2 ^ 52) := by
  refine eq_of_fields ?_ ?_ ?_
  · rw [signBit_mantissaPattern, signBit_pattern]
  · rw [expField_mantissaPattern, expField_pattern]
  · rw [fracField_mantissaPattern, fracField_pattern, Nat.mod_mod]

/-- `d1` has the value `1 + j * 2^-52` (R141). -/
theorem mantissaPattern_spec (c : Word) :
    isFinite (mantissaPattern c) = true ∧ signBit (mantissaPattern c) = false ∧
      magnitude (mantissaPattern c) = (2 ^ 52 + c.toNat % 2 ^ 52) * 2 ^ 1022 := by
  rw [mantissaPattern_eq_pattern]
  exact ⟨isFinite_pattern (by decide), signBit_pattern ..,
    magnitude_pattern_succ false (by decide) (Nat.mod_lt _ (by decide))⟩

theorem one64_spec : isFinite one64 = true ∧ signBit one64 = false ∧ magnitude one64 = 2 ^ 52 * 2 ^ 1022 := by
  decide +kernel

/-- The exact value of `d1 - 1.0`: the leading ones cancel, and the low 52 bits are left (R142, R143). -/
theorem mantissaPattern_sub_one (c : Word) :
    signed (signBit (mantissaPattern c)) (magnitude (mantissaPattern c)) +
        signed (signBit (negate one64)) (magnitude (negate one64)) =
      signed false (c.toNat % 2 ^ 52 * 2 ^ 1022) := by
  obtain ⟨-, hsign, hmag⟩ := mantissaPattern_spec c
  obtain ⟨-, hsign1, hmag1⟩ := one64_spec
  rw [signBit_negate, magnitude_negate, signed_not, hsign, hmag, hsign1, hmag1, Nat.add_mul]
  generalize 2 ^ 52 * 2 ^ 1022 = one
  simp only [signed_false, Nat.cast_add]
  exact add_neg_cancel_comm _ _

/-- The subtraction is exact, and gives the pattern of the formula (R142 to R144). -/
theorem fsub_mantissaPattern (c : Word) :
    fsub (mantissaPattern c) one64 = some (fractionPattern (c.toNat % 2 ^ 52)) := by
  obtain ⟨hfin, hsign, -⟩ := mantissaPattern_spec c
  have hone : isFinite (negate one64) = true := by rw [isFinite_negate, one64_spec.1]
  have hvalue := mantissaPattern_sub_one c
  obtain ⟨hqfin, hqsign, hqmag⟩ := fractionPattern_spec (Nat.mod_lt c.toNat (show 0 < 2 ^ 52 by decide))
  by_cases h0 : c.toNat % 2 ^ 52 = 0
  · rw [h0, Nat.zero_mul, signed_zero] at hvalue
    rw [h0, fractionPattern_zero, fsub, fadd_cancel hfin hone hvalue (.inl hsign)]
  · refine fadd_eq_of_value hfin hone hqfin ?_ ?_
    · rw [hqmag]
      exact Nat.mul_ne_zero h0 (by positivity)
    · rw [hvalue, hqsign, hqmag]

/-- The fraction of a word is the formula's pattern for its low 52 bits, whatever is drawn (R143, R144). -/
theorem fractionOf_eq_fractionPattern (draw c : Word) :
    fractionOf draw c = fractionPattern (c.toNat % 2 ^ 52) := by
  rw [fractionOf, fsub_mantissaPattern, settle_some]

/-- Settles O39: the fraction is the formula's pattern, and the value of that pattern is known. -/
theorem fractionIsExactAndBelowOne : Obligations.FractionIsExactAndBelowOne := by
  intro c draw
  have hj : c.toNat % 2 ^ 52 < 2 ^ 52 := Nat.mod_lt _ (by decide)
  obtain ⟨hfin, hsign, hmag⟩ := fractionPattern_spec hj
  rw [fractionOf_eq_fractionPattern, hmag]
  refine ⟨hfin, hsign, rfl, ?_, rfl⟩
  rw [two_pow_eq_mul 52 1022 1074 rfl]
  exact Nat.mul_lt_mul_of_pos_right hj (by positivity)

/-! ### FRAC and RAND0 -/

/-- The fraction of one step, and the registers of that step (R140, R145). -/
theorem fraction_eq (draw : Word) (r : Regs) :
    fraction draw r = (fractionPattern (drawnBits r), (advance r).2) :=
  Prod.ext (fractionOf_eq_fractionPattern draw (advance r).1) rfl

/-- Unseeded, FRAC answers `NotSeeded` (R183). -/
theorem exec_frac_of_unseeded {s : State} (h : s.regs = none) (a b : Word) :
    exec (.frac a b) s = .next (s.answer (.raised .notSeeded) 0) :=
  whenSeeded_none h

/-- On a seeded block FRAC commits the registers of one step and answers its fraction (R140). -/
theorem exec_frac_of_regs {s : State} {r : Regs} (h : s.regs = some r) (a b : Word) :
    exec (.frac a b) s = .next ((s.writeRegs (advance r).2).answer .ok (zext256 (fractionPattern (drawnBits r)))) := by
  have hfrac : exec (.frac a b) s = respondOk (zext256 (fraction s.nanDraw r).1)
      (s.writeRegs (fraction s.nanDraw r).2) := whenSeeded_some h
  rw [hfrac, fraction_eq]
  rfl

/-- RAND0 is the meaning of FRAC under a second opcode (R150). -/
theorem exec_rand0_eq_exec_frac (a b : Word) (s : State) : exec (.rand0 a b) s = exec (.frac a b) s := rfl

/-- Settles O38: the answers of FRAC by the seeded check, and RAND0 is FRAC. -/
theorem fracAndRand0ReturnTheFraction : Obligations.FracAndRand0ReturnTheFraction := by
  refine fun a b s => ⟨fun h => ?_, fun r h => ?_⟩
  · rw [exec_rand0_eq_exec_frac, exec_frac_of_unseeded h]
    exact ⟨rfl, rfl⟩
  · rw [exec_rand0_eq_exec_frac, exec_frac_of_regs h]
    exact ⟨rfl, rfl⟩

end Sys2Proof.Machine
end

section
/-! PROOFS. The range mapper as commands (R150 to R153): the answer in each of its cases, and the one step (R159). -/

namespace Sys2Proof.Machine

/-- Settles O40: the two opcodes have the same meaning. -/
theorem rand0IsFracForEveryState : Obligations.Rand0IsFracForEveryState := fun _ _ _ _ _ => rfl

/-- A drawing command on a seeded block answers next, with the registers of one step (R159, R215). -/
theorem exec_next_of_drawsUnder {i : Instr} {s : State} {r : Regs} (hr : s.regs = some r)
    (hi : drawsUnder s.hardenedRange i = true) : ∃ t, exec i s = .next t ∧ t.regs = some (advance r).2 := by
  obtain ⟨out, hout, hexec⟩ := exec_eq_of_advance hi
  have hs : { s with regs := some r } = s := by rw [← hr]
  exact ⟨out (advance r), by rw [← hexec r, hs], hout _ _⟩

/-- Settles O37: what a drawing command answers is a function of the step alone. -/
theorem valueOperationsSpendOneStep : Obligations.ValueOperationsSpendOneStep := fun _ _ _ => exec_next_of_drawsUnder

/-- What is answered is a pattern the rule may give: its result, or some NaN where it yields NaN (R92). -/
theorem yields_settle (s : State) (v : Option Word) : Yields v (settle s.nanDraw v) := by
  cases v with
  | none => exact s.isNaN_nanDraw
  | some w => exact rfl

/-- The answer to a mapped value: the registers of one step, a draw spent, and the value, a drawn NaN where it has no
pattern (R92, R151, R152). -/
def State.answerMapped (s : State) (r : Regs) (v : Option Word) : State :=
  (s.writeRegs (advance r).2).spendDraw.answer .ok (zext256 (settle s.nanDraw v))

theorem State.answerMapped_response (s : State) (r : Regs) (v : Word) :
    (s.answerMapped r (some v)).response = some ⟨.ok, zext256 v⟩ := rfl

/-- Unseeded, RAND1 answers `NotSeeded` (R183). -/
theorem exec_rand1_of_unseeded {s : State} (h : s.regs = none) (m b : Word) :
    exec (.rand1 m b) s = .next (s.answer (.raised .notSeeded) 0) :=
  whenSeeded_none h

/-- On a seeded block RAND1 answers the fraction of one step, mapped (R151). -/
theorem exec_rand1_of_regs {s : State} {r : Regs} (h : s.regs = some r) (m b : Word) :
    exec (.rand1 m b) s = .next (s.answerMapped r (map1 (fractionPattern (drawnBits r)) m)) := by
  have hrand : exec (.rand1 m b) s =
      respondMapped (map1 (fraction s.nanDraw r).1 m) (s.writeRegs (fraction s.nanDraw r).2) := whenSeeded_some h
  rw [hrand, fraction_eq]
  rfl

/-- Settles O41: the answers of RAND1 by the seeded check. -/
theorem rand1MapsTheFraction : Obligations.Rand1MapsTheFraction := by
  refine fun m b s => ⟨fun h => exec_rand1_of_unseeded h m b, fun r h => ?_⟩
  exact ⟨_, yields_settle s (map1 (fractionPattern (drawnBits r)) m), exec_rand1_of_regs h m b⟩

/-- Unseeded, RAND2 answers `NotSeeded`, whatever its bounds are (R183, R186). -/
theorem exec_rand2_of_unseeded {s : State} (h : s.regs = none) (m n : Word) :
    exec (.rand2 m n) s = .next (s.answer (.raised .notSeeded) 0) :=
  whenSeeded_none h

/-- On a seeded block RAND2 makes the hardened check, and then answers the fraction of one step, mapped (R152, R153). -/
theorem exec_rand2_of_regs {s : State} {r : Regs} (h : s.regs = some r) (m n : Word) :
    exec (.rand2 m n) s = if rangeRejected s m n = true then .next (s.answer (.raised .invalidRange) 0)
      else .next (s.answerMapped r (map2 (fractionPattern (drawnBits r)) m n)) := by
  have hrand : exec (.rand2 m n) s = if rangeRejected s m n = true then raise .invalidRange s
      else respondMapped (map2 (fraction s.nanDraw r).1 m n) (s.writeRegs (fraction s.nanDraw r).2) :=
    whenSeeded_some h
  rw [hrand, fraction_eq]
  rfl

/-- RAND2 that is not rejected answers the mapped fraction (R152). -/
theorem exec_rand2_of_accepted {s : State} {r : Regs} (h : s.regs = some r) {m n : Word}
    (hok : s.hardenedRange = false ∨ flt n m = false) :
    exec (.rand2 m n) s = .next (s.answerMapped r (map2 (fractionPattern (drawnBits r)) m n)) := by
  have hc : rangeRejected s m n = false := Bool.and_eq_false_iff.2 hok
  rw [exec_rand2_of_regs h, hc, if_neg Bool.false_ne_true]

/-- The value of RAND2 with its four roundings in order (R152, R154). -/
theorem map2_eq (f m n : Word) :
    map2 f m n = (fsub n m).bind fun t => (fadd t one64).bind fun w => scaled f w m :=
  Option.bind_assoc ..

/-- Settles O42: the answers of RAND2 by the seeded check and the hardened one. -/
theorem rand2MapsTheFraction : Obligations.Rand2MapsTheFraction := by
  refine fun m n s => ⟨fun h => exec_rand2_of_unseeded h m n, fun r h => ⟨fun hrev => ?_, fun hok => ?_⟩⟩
  · rw [exec_rand2_of_regs h, if_pos (rangeRejected_iff.2 hrev)]
    rfl
  · have hyields := yields_settle s (map2 (fractionPattern (drawnBits r)) m n)
    nth_rw 1 [map2_eq] at hyields
    exact ⟨_, hyields, exec_rand2_of_accepted h hok⟩

end Sys2Proof.Machine
end

section
/-! PROOFS. The product of a fraction and a width (R84, R143): finite, of the width's sign, and rounded no further than
the patterns around its exact value. -/

namespace Sys2Proof.Machine

/-- Rounding does not go above a finite pattern that the exact value does not pass, and so does not overflow (R83). -/
theorem rne_le_magnitude (sign : Bool) {num den : Nat} (hden : 0 < den) {q : Word} (hq : isFinite q = true)
    (h : num * 2 ^ 1074 ≤ magnitude q * den) :
    isFinite (rne sign num den) = true ∧ signBit (rne sign num den) = sign ∧
      magnitude (rne sign num den) ≤ magnitude q := by
  have hlimit : num < (2 ^ 54 - 1) * 2 ^ 970 * den := by
    rw [← Nat.not_le, overflow_limit_units, Nat.not_le]
    exact h.trans_lt (Nat.mul_lt_mul_of_pos_right (magnitude_lt_of_isFinite hq) hden)
  obtain ⟨hfin, hsign, -, -⟩ := rne_finite sign hden hlimit
  refine ⟨hfin, hsign, ?_⟩
  have hnear := (rne_nearest sign hden hlimit q).1
  by_contra! hlt
  have habove := Nat.mul_lt_mul_of_pos_right hlt hden
  rw [Nat.dist_eq_sub_of_le_right (h.trans habove.le), Nat.dist_eq_sub_of_le_right h] at hnear
  omega

/-- `p` is a rounding of `j * 2^-52` of the value of `w`: no pattern lies between the exact magnitude and its own. -/
structure IsFractionOf (j : Nat) (w p : Word) : Prop where
  finite : isFinite p = true
  sign : signBit p = signBit w
  le : ∀ q, isFinite q = true → j * magnitude w ≤ magnitude q * 2 ^ 52 → magnitude p ≤ magnitude q
  ge : ∀ q, magnitude q * 2 ^ 52 ≤ j * magnitude w → magnitude q ≤ magnitude p

theorem IsFractionOf.of_eq_zero {j : Nat} {w : Word} (h : j * magnitude w = 0) :
    IsFractionOf j w (zero (signBit w)) where
  finite := isFinite_zero _
  sign := signBit_pattern ..
  le q _ _ := by rw [magnitude_zero]; exact Nat.zero_le _
  ge q hq := by
    rw [h, Nat.le_zero, Nat.mul_eq_zero] at hq
    rw [hq.resolve_right (by decide)]
    exact Nat.zero_le _

/-- The exact product of a fraction and a magnitude as `rne` is given it, in units of 2^-1074. -/
theorem fraction_product_units (j m : Nat) : j * 2 ^ 1022 * m * 2 ^ 1074 = j * m * (2 ^ 1022 * 2 ^ 1074) := by
  rw [mul_right_comm j, mul_assoc]

/-- A magnitude on the denominator of a product, in the same units. -/
theorem product_denominator_units (n : Nat) : n * (2 ^ 1074 * 2 ^ 1074) = n * 2 ^ 52 * (2 ^ 1022 * 2 ^ 1074) := by
  have h := two_pow_eq_mul 52 1022 1074 rfl
  generalize 2 ^ 1074 = one at *
  nth_rw 1 [h]
  simp only [mul_assoc]

theorem IsFractionOf.of_rne {j : Nat} (hj : j < 2 ^ 52) {w : Word} (hw : isFinite w = true) :
    IsFractionOf j w (rne (signBit w) (j * 2 ^ 1022 * magnitude w) (2 ^ 1074 * 2 ^ 1074)) := by
  have hden : 0 < 2 ^ 1074 * 2 ^ 1074 := by positivity
  have hle (q : Word) (h : j * magnitude w ≤ magnitude q * 2 ^ 52) :
      j * 2 ^ 1022 * magnitude w * 2 ^ 1074 ≤ magnitude q * (2 ^ 1074 * 2 ^ 1074) := by
    rw [fraction_product_units, product_denominator_units]
    exact Nat.mul_le_mul_right _ h
  have hge (q : Word) (h : magnitude q * 2 ^ 52 ≤ j * magnitude w) :
      magnitude q * (2 ^ 1074 * 2 ^ 1074) ≤ j * 2 ^ 1022 * magnitude w * 2 ^ 1074 := by
    rw [fraction_product_units, product_denominator_units]
    exact Nat.mul_le_mul_right _ h
  obtain ⟨hfin, hsign, -⟩ := rne_le_magnitude (signBit w) hden hw
    (hle w (by rw [mul_comm]; exact Nat.mul_le_mul_left _ hj.le))
  exact ⟨hfin, hsign, fun q hq h => (rne_le_magnitude _ hden hq (hle q h)).2.2,
    fun q h => magnitude_le_rne hden hfin (hge q h)⟩

/-- The product of a fraction and a finite width is finite: the fraction is below 1, so it does not overflow (R158). -/
theorem fmul_fractionPattern {j : Nat} (hj : j < 2 ^ 52) {w : Word} (hw : isFinite w = true) :
    ∃ p, fmul (fractionPattern j) w = some p ∧ IsFractionOf j w p := by
  obtain ⟨hfin, hsign, hmag⟩ := fractionPattern_spec hj
  by_cases h0 : j * magnitude w = 0
  · refine ⟨zero (signBit w), ?_, .of_eq_zero h0⟩
    have hzero : magnitude (fractionPattern j) = 0 ∨ magnitude w = 0 := by
      rw [hmag]
      exact (Nat.mul_eq_zero.1 h0).imp_left fun hj0 => by rw [hj0, Nat.zero_mul]
    rw [fmul_zero_of_finite hfin hw hzero, hsign, Bool.false_xor]
  · obtain ⟨hj0, hw0⟩ := Nat.mul_ne_zero_iff.1 h0
    refine ⟨_, ?_, .of_rne hj hw⟩
    have hf0 : magnitude (fractionPattern j) ≠ 0 := by
      rw [hmag]
      exact Nat.mul_ne_zero hj0 (by positivity)
    rw [fmul_finite hfin hw hf0 hw0, hsign, hmag, Bool.false_xor]

/-- The mapping from the floor of the product on (R151, R152). -/
theorem scaled_eq_fadd {f w p g : Word} (hp : fmul f w = some p) (hg : ffloor p = some g) (base : Word) :
    scaled f w base = fadd g base := by
  rw [scaled, hp, Option.bind_some, hg, Option.bind_some]

end Sys2Proof.Machine
end

section
/-! PROOFS. NaN, infinite and finite results of the range mapper (R158), and the bounds that leave one value (R157). -/

namespace Sys2Proof.Machine

theorem isFinite_one64 : isFinite one64 = true := one64_spec.1

theorem magnitude_one64 : magnitude one64 = 2 ^ 1074 :=
  one64_spec.2.2.trans (two_pow_eq_mul 52 1022 1074 rfl).symm

/-! ### Infinite widths -/

/-- The product of a fraction and an infinity: `0 * inf` is a NaN (R84, R158). -/
theorem fmul_fractionPattern_infinity {j : Nat} (hj : j < 2 ^ 52) (s : Bool) :
    fmul (fractionPattern j) (infinity s) = if j = 0 then none else some (infinity s) := by
  obtain ⟨hfin, hsign, hmag⟩ := fractionPattern_spec hj
  have hzero : j * 2 ^ 1022 = 0 ↔ j = 0 := Nat.mul_eq_zero.trans (or_iff_left (by positivity))
  simp only [fmul, classify_infinity, classify_of_isFinite hfin, hsign, hmag, hzero, Bool.false_xor]

theorem ffloor_infinity (s : Bool) : ffloor (infinity s) = some (infinity s) := by
  simp only [ffloor, classify_infinity]

/-- An infinite width gives NaN at fraction 0, and otherwise adds that infinity to the base (R158). -/
theorem scaled_infinity {j : Nat} (hj : j < 2 ^ 52) (s : Bool) (base : Word) :
    scaled (fractionPattern j) (infinity s) base = if j = 0 then none else fadd (infinity s) base := by
  rw [scaled, fmul_fractionPattern_infinity hj]
  split
  · rfl
  · rw [Option.bind_some, ffloor_infinity, Option.bind_some]

/-- An infinite difference of the bounds of RAND2 is its width (R158). -/
theorem map2_of_fsub_eq_infinity {j : Nat} (hj : j < 2 ^ 52) {m n : Word} {s : Bool}
    (h : fsub n m = some (infinity s)) :
    map2 (fractionPattern j) m n = if j = 0 then none else fadd (infinity s) m := by
  rw [map2_eq, h, Option.bind_some, fadd_infinity_finite s isFinite_one64, Option.bind_some, scaled_infinity hj]

theorem map2_of_fsub_eq_none {f m n : Word} (h : fsub n m = none) : map2 f m n = none := by
  rw [map2_eq, h, Option.bind_none]

@[simp] theorem isNaN_negate (p : Word) : isNaN (negate p) = isNaN p := by
  simp only [isNaN, expField_negate, fracField_negate]

theorem negate_infinity (s : Bool) : negate (infinity s) = infinity !s :=
  eq_of_fields (by simp [infinity]) (by simp [infinity]) (by simp [infinity])

theorem fsub_nan {a b : Word} (h : isNaN a = true ∨ isNaN b = true) : fsub a b = none :=
  fadd_nan (by rwa [isNaN_negate])

/-- Opposite infinities have no sum (R85). -/
theorem fadd_opposite_infinities (s : Bool) : fadd (infinity !s) (infinity s) = none := by
  simp [fadd]

/-- A difference with an infinite second operand is a NaN, or the opposite infinity (R85, R86). -/
theorem fsub_infinity_right (n : Word) (s : Bool) :
    fsub n (infinity s) = none ∨ fsub n (infinity s) = some (infinity !s) := by
  rw [fsub, negate_infinity]
  cases h : isNaN n with
  | true => exact .inl (fadd_nan (.inl h))
  | false =>
    obtain hn | hn := isFinite_or_eq_infinity h
    · exact .inr (by rw [fadd_comm, fadd_infinity_finite _ hn])
    · rw [hn]
      by_cases hs : signBit n = !s
      · exact .inr (by simp [fadd, hs])
      · exact .inl (by simp [fadd, hs])

/-- An infinite lower bound gives NaN at every fraction: the width is no number, or the opposite infinity (R158). -/
theorem map2_infinity_left {j : Nat} (hj : j < 2 ^ 52) (s : Bool) (n : Word) :
    map2 (fractionPattern j) (infinity s) n = none := by
  obtain h | h := fsub_infinity_right n s
  · exact map2_of_fsub_eq_none h
  · rw [map2_of_fsub_eq_infinity hj h, fadd_opposite_infinities, ite_self]

/-- With a finite lower bound an infinite difference of the bounds is the result, but at fraction 0 (R158). -/
theorem map2_of_fsub_overflow {j : Nat} (hj : j < 2 ^ 52) {m n : Word} (hm : isFinite m = true) {s : Bool}
    (h : fsub n m = some (infinity s)) :
    map2 (fractionPattern j) m n = if j = 0 then none else some (infinity s) := by
  rw [map2_of_fsub_eq_infinity hj h, fadd_infinity_finite s hm]

/-- Settles O48: each row by the difference of the bounds. -/
theorem rand2NonFiniteResults : Obligations.Rand2NonFiniteResults := by
  refine fun j m n hj => ⟨fun h => ?_, fun s h => ?_, fun s hm h => ?_, fun s hm _ h => ?_⟩
  · exact map2_of_fsub_eq_none (fsub_nan h.symm)
  · rw [h, map2_infinity_left hj]
  · refine map2_of_fsub_overflow hj hm ?_
    rw [h, fsub, fadd_infinity_finite s (by rwa [isFinite_negate])]
  · exact map2_of_fsub_overflow hj hm h

/-! ### Finite bounds of RAND1 -/

/-- The greatest finite magnitude (R81). -/
theorem magnitude_le_of_isFinite {p : Word} (h : isFinite p = true) : magnitude p ≤ (2 ^ 53 - 1) * 2 ^ 2045 := by
  have hf := fracField_lt p
  have he := expField_lt p
  rw [isFinite, bne_iff_ne] at h
  obtain ⟨-, hp⟩ | ⟨j, hj, hp⟩ := magnitude_cases p
  · rw [hp]
    have hone : 0 < 2 ^ 2045 := by positivity
    omega
  · rw [hp]
    exact Nat.mul_le_mul (by omega) (pow_le_pow_right₀ one_le_two (by omega))

/-- A sum of finite patterns whose magnitudes add up to less than the overflow limit is finite (R83, R85). -/
theorem fadd_of_magnitude_add_lt {a b : Word} (ha : isFinite a = true) (hb : isFinite b = true)
    (h : magnitude a + magnitude b < (2 ^ 54 - 1) * 2 ^ 2044) : ∃ v, fadd a b = some v ∧ isFinite v = true := by
  by_cases h0 : signed (signBit a) (magnitude a) + signed (signBit b) (magnitude b) = 0
  · refine ⟨zero (magnitude a == 0 && magnitude b == 0 && signBit a && signBit b), ?_, isFinite_zero _⟩
    simp only [fadd, classify_of_isFinite ha, classify_of_isFinite hb, if_pos h0]
  · refine ⟨_, fadd_finite ha hb h0, (rne_finite _ (by positivity) ?_).1⟩
    rw [mul_assoc, ← two_pow_eq_mul 970 1074 2044 rfl]
    refine lt_of_le_of_lt ?_ h
    simpa only [natAbs_signed] using
      Int.natAbs_add_le (signed (signBit a) (magnitude a)) (signed (signBit b) (magnitude b))

/-- Adding 1.0 to a finite value does not overflow: the greatest one is half a unit below the limit (R158). -/
theorem fadd_one64_of_isFinite {g : Word} (hg : isFinite g = true) :
    ∃ v, fadd g one64 = some v ∧ isFinite v = true := by
  refine fadd_of_magnitude_add_lt hg isFinite_one64 ?_
  have hle := magnitude_le_of_isFinite hg
  have hlt : 2 ^ 1074 < 2 ^ 2044 := pow_lt_pow_right₀ one_lt_two (by decide)
  rw [two_pow_eq_mul 1 2044 2045 rfl] at hle
  rw [magnitude_one64]
  generalize 2 ^ 1074 = one at *
  omega

/-- The floor of a finite value is finite (R87). -/
theorem ffloor_of_isFinite {p : Word} (hp : isFinite p = true) : ∃ g, ffloor p = some g ∧ isFinite g = true := by
  obtain ⟨g, hg, k, hk, -⟩ := ffloor_isFloorOf hp
  exact ⟨g, hg, hk.1⟩

/-- Settles O47: a NaN goes through, an infinite bound is an infinite width, and no operator overflows on a finite
one. -/
theorem rand1NonFiniteResults : Obligations.Rand1NonFiniteResults := by
  refine fun j m hj => ⟨fun h => ?_, fun s h => ?_, fun h => ?_⟩
  · rw [map1, scaled, fmul_nan (.inr h), Option.bind_none]
  · rw [map1, h, scaled_infinity hj, fadd_infinity_finite s isFinite_one64]
  · obtain ⟨p, hp, hfrac⟩ := fmul_fractionPattern hj h
    obtain ⟨g, hg, hgfin⟩ := ffloor_of_isFinite hfrac.finite
    rw [map1, scaled_eq_fadd hp hg]
    exact fadd_one64_of_isFinite hgfin

/-! ### Widths of at most 1 -/

theorem eq_zero_of_magnitude_eq_zero {p : Word} (h : magnitude p = 0) : p = zero (signBit p) :=
  eq_of_signBit_of_magnitude (signBit_pattern ..).symm (h.trans (magnitude_zero _).symm)

/-- A value in [0, 1), or `-0`, has a zero as its floor (R87). -/
theorem ffloor_eq_zero {p : Word} (hp : isFinite p = true) (hs : signBit p = false ∨ magnitude p = 0)
    (hlt : magnitude p < 2 ^ 1074) : ∃ s, ffloor p = some (zero s) := by
  by_cases h0 : magnitude p = 0
  · exact ⟨signBit p, (ffloor_of_magnitude_zero hp h0).trans (congrArg some (eq_zero_of_magnitude_eq_zero h0))⟩
  · exact ⟨false, ffloor_below_one hp h0 (hs.resolve_right h0) hlt⟩

/-- Adding a non-zero value to a zero gives that value (R85). -/
theorem fadd_zero_left (s : Bool) {b : Word} (hb : isFinite b = true) (hb0 : magnitude b ≠ 0) :
    fadd (zero s) b = some b :=
  fadd_eq_of_value (isFinite_zero s) hb hb hb0 (by rw [magnitude_zero, signed_zero, Int.zero_add])

/-- The product with a width of at most 1 is no more than the fraction, and so below 1 (R157). -/
theorem IsFractionOf.magnitude_lt_one {j : Nat} (hj : j < 2 ^ 52) {w p : Word} (h : IsFractionOf j w p)
    (hw : magnitude w ≤ 2 ^ 1074) : magnitude p < 2 ^ 1074 := by
  obtain ⟨hfin, -, hmag⟩ := fractionPattern_spec hj
  have hle := h.le (fractionPattern j) hfin (by
    rw [hmag, mul_assoc, mul_comm (2 ^ 1022), ← two_pow_eq_mul 52 1022 1074 rfl]
    exact Nat.mul_le_mul_left j hw)
  rw [hmag] at hle
  rw [two_pow_eq_mul 52 1022 1074 rfl]
  exact hle.trans_lt (Nat.mul_lt_mul_of_pos_right hj (by positivity))

/-- A width in [0, 1], or `-0`, leaves the base alone at every fraction (R157). -/
theorem scaled_of_width_le_one {j : Nat} (hj : j < 2 ^ 52) {w base : Word} (hw : isFinite w = true)
    (hle : (signBit w = false ∧ magnitude w ≤ 2 ^ 1074) ∨ magnitude w = 0) (hb : isFinite base = true)
    (hb0 : magnitude base ≠ 0) : scaled (fractionPattern j) w base = some base := by
  obtain ⟨p, hp, hfrac⟩ := fmul_fractionPattern hj hw
  have hw1 : magnitude w ≤ 2 ^ 1074 := hle.elim And.right fun h => h ▸ Nat.zero_le _
  have hsign : signBit p = false ∨ magnitude p = 0 := by
    refine hle.imp (fun h => hfrac.sign.trans h.1) fun h => Nat.le_zero.1 ?_
    simpa only [magnitude_zero] using
      hfrac.le (zero false) (isFinite_zero _) (by rw [h, Nat.mul_zero]; exact Nat.zero_le _)
  obtain ⟨s, hs⟩ := ffloor_eq_zero hfrac.finite hsign (hfrac.magnitude_lt_one hj hw1)
  rw [scaled_eq_fadd hp hs, fadd_zero_left s hb hb0]

theorem magnitude_one64_ne_zero : magnitude one64 ≠ 0 := by
  rw [magnitude_one64]
  positivity

/-- Equal finite bounds have the width 1.0 (R157). -/
theorem map2_self {f m : Word} (hm : isFinite m = true) : map2 f m m = scaled f one64 m := by
  rw [map2_eq, fsub_self hm, Option.bind_some, ← zero_false_eq, fadd_zero_left false isFinite_one64
    magnitude_one64_ne_zero, Option.bind_some]

/-- Settles O49: both have a width of at most 1, and a base that is not 0. -/
theorem singleValuedBounds : Obligations.SingleValuedBounds := by
  refine fun j m hj hm => ⟨fun h => ?_, fun h => ?_⟩
  · exact scaled_of_width_le_one hj hm h isFinite_one64 magnitude_one64_ne_zero
  · rw [map2_self hm]
    exact scaled_of_width_le_one hj isFinite_one64 (.inl ⟨one64_spec.2.1, magnitude_one64.le⟩) hm h

end Sys2Proof.Machine
end

section
/-! PROOFS. Integer values (R81): their patterns, their sums (R85), and their floors (R87). -/

namespace Sys2Proof.Machine

theorem natAbs_mul_units (k : Int) : (k * 2 ^ 1074).natAbs = k.natAbs * 2 ^ 1074 := by
  rw [← natCast_two_pow_units, Int.natAbs_mul, Int.natAbs_natCast]

theorem units_pos : (0 : Int) < 2 ^ 1074 := by positivity

section
variable {p q : Word} {k l : Int}

theorem HasIntValue.magnitude_eq (h : HasIntValue p k) : magnitude p = k.natAbs * 2 ^ 1074 := by
  rw [← natAbs_mul_units, ← h.2, natAbs_signed]

theorem HasIntValue.magnitude_ne_zero (h : HasIntValue p k) (h0 : k ≠ 0) : magnitude p ≠ 0 := by
  rw [h.magnitude_eq]
  exact Nat.mul_ne_zero (Int.natAbs_ne_zero.2 h0) (by positivity)

theorem HasIntValue.signBit_of_pos (h : HasIntValue p k) (hk : 0 < k) : signBit p = false := by
  by_contra hs
  have hvalue := h.2
  rw [Bool.eq_true_of_not_eq_false hs, signed_true] at hvalue
  have := Int.mul_pos hk units_pos
  omega

theorem HasIntValue.signBit_of_neg (h : HasIntValue p k) (hk : k < 0) : signBit p = true := by
  by_contra hs
  have hvalue := h.2
  rw [Bool.eq_false_of_not_eq_true hs, signed_false] at hvalue
  have := Int.mul_neg_of_neg_of_pos hk units_pos
  omega

theorem HasIntValue.negate (h : HasIntValue p k) : HasIntValue (negate p) (-k) := by
  refine ⟨by rw [isFinite_negate, h.1], ?_⟩
  rw [signBit_negate, magnitude_negate, signed_not, h.2, Int.neg_mul]

theorem hasIntValue_zero (s : Bool) : HasIntValue (zero s) 0 :=
  ⟨isFinite_zero s, by rw [magnitude_zero, signed_zero, Int.zero_mul]⟩

theorem hasIntValue_one64 : HasIntValue one64 1 :=
  ⟨isFinite_one64, by
    rw [one64_spec.2.1, magnitude_one64, signed_false, Int.one_mul]
    exact natCast_two_pow_units⟩

/-- Every integer of at most 53 bits has a pattern (R81). -/
theorem exists_hasIntValue (hk : |k| < 2 ^ 53) : ∃ q, HasIntValue q k := by
  rw [Int.abs_eq_natAbs] at hk
  obtain ⟨q, hq, hs, hm⟩ := exists_magnitude_eq (decide (k < 0)) (n := k.natAbs) (by omega) (j := 1074) (by decide)
  refine ⟨q, hq, ?_⟩
  rw [hs, hm]
  by_cases h : k < 0
  · rw [decide_eq_true h, signed_true, Nat.cast_mul, natCast_two_pow_units, ← Int.neg_mul]
    rw [Int.ofNat_natAbs_of_nonpos h.le, Int.neg_neg]
  · rw [decide_eq_false h, signed_false, Nat.cast_mul, natCast_two_pow_units]
    rw [Int.natAbs_of_nonneg (by omega)]

/-- A sum of integers that has at most 53 bits is exact (R85, R155). -/
theorem HasIntValue.fadd (hp : HasIntValue p k) (hq : HasIntValue q l) (h : |k + l| < 2 ^ 53) :
    ∃ v, fadd p q = some v ∧ HasIntValue v (k + l) := by
  have hsum : signed (signBit p) (magnitude p) + signed (signBit q) (magnitude q) = (k + l) * 2 ^ 1074 := by
    rw [hp.2, hq.2, Int.add_mul]
  by_cases h0 : k + l = 0
  · rw [h0, Int.zero_mul] at hsum
    refine ⟨zero (magnitude p == 0 && magnitude q == 0 && signBit p && signBit q), ?_, h0 ▸ hasIntValue_zero _⟩
    simp only [Machine.fadd, classify_of_isFinite hp.1, classify_of_isFinite hq.1, if_pos hsum]
  · obtain ⟨v, hv⟩ := exists_hasIntValue h
    exact ⟨v, fadd_eq_of_value hp.1 hq.1 hv.1 (hv.magnitude_ne_zero h0) (hsum.trans hv.2.symm), hv⟩

/-- The floor of a value that is not negative is its magnitude rounded down (R87). -/
theorem IsFloorOf.of_not_negative {a g : Word} (h : IsFloorOf a g) (hs : signBit a = false) :
    ∃ c : Nat, HasIntValue g c ∧ c * 2 ^ 1074 ≤ magnitude a ∧ magnitude a < (c + 1) * 2 ^ 1074 := by
  obtain ⟨k, hk, hlo, hhi⟩ := h
  rw [hs, signed_false] at hlo hhi
  have hk1 : 0 < k + 1 := by
    by_contra! hle
    have := Int.mul_nonpos_of_nonpos_of_nonneg hle units_pos.le
    omega
  lift k to Nat using by omega
  rw [← natCast_two_pow_units] at hlo hhi
  exact ⟨k, hk, by exact_mod_cast hlo, by exact_mod_cast hhi⟩

/-- The floor of a value that is not positive is the negative of its magnitude rounded up (R87). -/
theorem IsFloorOf.of_negative {a g : Word} (h : IsFloorOf a g) (hs : signBit a = true) :
    ∃ c : Nat, HasIntValue g (-c) ∧ magnitude a ≤ c * 2 ^ 1074 ∧ c * 2 ^ 1074 < magnitude a + 2 ^ 1074 := by
  obtain ⟨k, hk, hlo, hhi⟩ := h
  rw [hs, signed_true] at hlo hhi
  obtain ⟨k, rfl⟩ : ∃ l, k = -l := ⟨-k, (Int.neg_neg k).symm⟩
  have hk0 : 0 ≤ k := by
    by_contra! hlt
    have := Int.mul_pos (Int.neg_pos_of_neg hlt) units_pos
    omega
  lift k to Nat using hk0
  rw [← natCast_two_pow_units] at hlo hhi
  generalize 2 ^ 1074 = d at hlo hhi ⊢
  have hlo' : (magnitude a : Int) ≤ k * d := by linarith
  have hhi' : (k * d : Int) < magnitude a + d := by linarith
  exact ⟨k, hk, by exact_mod_cast hlo', by exact_mod_cast hhi'⟩

end

end Sys2Proof.Machine
end

section
/-! PROOFS. Integer bounds of moderate size (R155, R160): the floor of a fraction of an integer width, and the range of
the result. -/

namespace Sys2Proof.Machine

section
variable {j : Nat} {w p : Word}

/-- A fraction of a normal width stays below it: the greatest fraction is `1 - 2^-52`, so the exact product is at least
a unit in the last place below the width, and rounding does not carry it up (R155). -/
theorem IsFractionOf.magnitude_lt (h : IsFractionOf j w p) (hj : j < 2 ^ 52) (hw : isFinite w = true)
    (hnormal : expField w ≠ 0) : magnitude p < magnitude w := by
  rw [isFinite, bne_iff_ne] at hw
  have hf := fracField_lt w
  have he := expField_lt w
  obtain ⟨h0, -⟩ | ⟨i, hi, hm⟩ := magnitude_cases w
  · exact absurd h0 hnormal
  · obtain ⟨q, hq, -, hqm⟩ := exists_magnitude_eq false (n := 2 ^ 52 + fracField w - 1) (by omega) (j := i) (by omega)
    have hexact : j * (2 ^ 52 + fracField w) ≤ (2 ^ 52 + fracField w - 1) * 2 ^ 52 :=
      (Nat.mul_le_mul_right _ (Nat.le_sub_one_of_lt hj)).trans (by omega)
    have hle := h.le q hq (by
      rw [hm, hqm, ← mul_assoc, mul_right_comm _ (2 ^ i)]
      exact Nat.mul_le_mul_right _ hexact)
    rw [hqm] at hle
    rw [hm]
    exact hle.trans_lt (Nat.mul_lt_mul_of_pos_right (by omega) (by positivity))

/-- A non-zero integer is a normal value (R81). -/
theorem HasIntValue.expField_ne_zero {k : Int} (h : HasIntValue w k) (h0 : k ≠ 0) : expField w ≠ 0 := by
  intro he
  have hm := h.magnitude_eq
  rw [magnitude, if_pos he] at hm
  have hone : 2 ^ 1074 ≤ k.natAbs * 2 ^ 1074 := Nat.le_mul_of_pos_left _ (Int.natAbs_pos.2 h0)
  have hpow : 2 ^ 52 < 2 ^ 1074 := pow_lt_pow_right₀ one_lt_two (by decide)
  have hf := fracField_lt w
  omega

/-- The mapping of a fraction up to the last addition: the floor of the product. -/
theorem exists_floor_of_fraction (hj : j < 2 ^ 52) (hw : isFinite w = true) :
    ∃ p g, IsFractionOf j w p ∧ IsFloorOf p g ∧ ∀ base, scaled (fractionPattern j) w base = fadd g base := by
  obtain ⟨p, hp, hfrac⟩ := fmul_fractionPattern hj hw
  obtain ⟨g, hg, hfloor⟩ := ffloor_isFloorOf hfrac.finite
  exact ⟨p, g, hfrac, hfloor, scaled_eq_fadd hp hg⟩

/-- The fraction 0 has the product 0. -/
theorem IsFractionOf.magnitude_eq_zero (h : IsFractionOf j w p) (hj : j = 0) : magnitude p = 0 := by
  have hle := h.le (zero false) (isFinite_zero _) (by rw [hj, Nat.zero_mul]; exact Nat.zero_le _)
  rwa [magnitude_zero, Nat.le_zero] at hle

/-- The greatest fraction of an integer up to 2^52 is at least the integer below it (R155, R156). -/
theorem IsFractionOf.le_magnitude (h : IsFractionOf j w p) (hj : j = 2 ^ 52 - 1) {c : Nat} (hc : c ≤ 2 ^ 52)
    (hw : magnitude w = c * 2 ^ 1074) : (c - 1) * 2 ^ 1074 ≤ magnitude p := by
  obtain ⟨q, -, -, hqm⟩ := exists_magnitude_eq false (n := c - 1) (by omega) (j := 1074) (by decide)
  rw [← hqm]
  refine h.ge q ?_
  rw [hqm, hw, hj, ← mul_assoc, mul_right_comm _ (2 ^ 1074)]
  exact Nat.mul_le_mul_right _ (by omega)

/-- With a positive integer width `c` the last addition adds to the base an integer of [0, c - 1]: 0 at the least
fraction, and `c - 1` at the greatest where `c` is at most 2^52 (R155, R156). -/
theorem exists_summand_of_pos (hj : j < 2 ^ 52) {c : Nat} (hc : 0 < c) (hw : HasIntValue w c) :
    ∃ (g : Word) (k : Nat), (∀ base, scaled (fractionPattern j) w base = fadd g base) ∧ HasIntValue g k ∧ k < c ∧
      (j = 0 → k = 0) ∧ (j = 2 ^ 52 - 1 → c ≤ 2 ^ 52 → k + 1 = c) := by
  obtain ⟨p, g, hfrac, hfloor, hscaled⟩ := exists_floor_of_fraction hj hw.1
  obtain ⟨k, hk, hlo, hhi⟩ := hfloor.of_not_negative (hfrac.sign.trans (hw.signBit_of_pos (by omega)))
  have hmag := hw.magnitude_eq
  rw [Int.natAbs_natCast] at hmag
  have hlt := hfrac.magnitude_lt hj hw.1 (hw.expField_ne_zero (by omega))
  rw [hmag] at hlt
  have hkc : k < c := Nat.lt_of_mul_lt_mul_right (hlo.trans_lt hlt)
  refine ⟨g, k, hscaled, hk, hkc, fun hleast => ?_, fun hgreatest hc52 => ?_⟩
  · rw [hfrac.magnitude_eq_zero hleast, Nat.le_zero, Nat.mul_eq_zero] at hlo
    exact hlo.resolve_right (by positivity)
  · have := Nat.lt_of_mul_lt_mul_right ((hfrac.le_magnitude hgreatest hc52 hmag).trans_lt hhi)
    omega

/-- With a negative integer width `-c` it adds an integer of [-c, 0] (R160). -/
theorem exists_summand_of_neg (hj : j < 2 ^ 52) {c : Nat} (hc : 0 < c) (hw : HasIntValue w (-c)) :
    ∃ (g : Word) (k : Nat), (∀ base, scaled (fractionPattern j) w base = fadd g base) ∧ HasIntValue g (-k) ∧
      k ≤ c := by
  obtain ⟨p, g, hfrac, hfloor, hscaled⟩ := exists_floor_of_fraction hj hw.1
  obtain ⟨k, hk, -, hhi⟩ := hfloor.of_negative (hfrac.sign.trans (hw.signBit_of_neg (by omega)))
  have hlt := hfrac.magnitude_lt hj hw.1 (hw.expField_ne_zero (by omega))
  rw [hw.magnitude_eq, Int.natAbs_neg, Int.natAbs_natCast] at hlt
  have hle : k * 2 ^ 1074 < (c + 1) * 2 ^ 1074 := by
    rw [Nat.add_one_mul]
    exact hhi.trans (Nat.add_lt_add_right hlt _)
  exact ⟨g, k, hscaled, hk, Nat.le_of_lt_succ (Nat.lt_of_mul_lt_mul_right hle)⟩

end

theorem drawnBits_lt (r : Regs) : drawnBits r < 2 ^ 52 := Nat.mod_lt _ (by decide)

/-- Settles O44: 1.0 is added to an integer of [0, M - 1]. -/
theorem rand1AnswersAnIntegerInRange : Obligations.Rand1AnswersAnIntegerInRange := by
  intro m b s r M hr hm hM hM52
  obtain ⟨g, k, hscaled, hg, hkM, hleast, hgreatest⟩ := exists_summand_of_pos (drawnBits_lt r) hM hm
  obtain ⟨v, hv, hvk⟩ := hg.fadd hasIntValue_one64 (abs_lt.2 ⟨by omega, by omega⟩)
  have hmap : map1 (fractionPattern (drawnBits r)) m = some v := (hscaled one64).trans hv
  refine ⟨_, v, k + 1, exec_rand1_of_regs hr m b, by rw [hmap, State.answerMapped_response], hvk, by omega, by omega,
    fun h => ?_, fun h => ?_⟩
  · have := hleast h
    omega
  · have := hgreatest h hM52
    omega

/-- The width of integer bounds is exact where it is of moderate size (R155). -/
theorem exists_integer_width {m n : Word} {M N : Int} (hm : HasIntValue m M) (hn : HasIntValue n N)
    (hW : |N - M + 1| ≤ 2 ^ 52) :
    ∃ w, HasIntValue w (N - M + 1) ∧ ∀ f, map2 f m n = scaled f w m := by
  rw [abs_le] at hW
  obtain ⟨t, ht, htv⟩ := hn.fadd hm.negate (abs_lt.2 ⟨by omega, by omega⟩)
  obtain ⟨w, hw, hwv⟩ := htv.fadd hasIntValue_one64 (abs_lt.2 ⟨by omega, by omega⟩)
  refine ⟨w, hwv, fun f => ?_⟩
  rw [map2_eq, fsub, ht, Option.bind_some, hw, Option.bind_some]

/-- RAND2 that is not rejected, with integer bounds of moderate size: `m` is added to an integer `k`, and the sum is the
result. -/
theorem exec_rand2_of_summand {m n g : Word} {s : State} {r : Regs} {M k : Int} (hr : s.regs = some r)
    (hok : s.hardenedRange = false ∨ flt n m = false) (hm : HasIntValue m M) (hg : HasIntValue g k)
    (hmap : map2 (fractionPattern (drawnBits r)) m n = fadd g m) (hsum : |k + M| < 2 ^ 53) :
    ∃ t v, exec (.rand2 m n) s = .next t ∧ t.response = some ⟨.ok, zext256 v⟩ ∧ HasIntValue v (k + M) := by
  obtain ⟨v, hv, hvk⟩ := hg.fadd hm hsum
  exact ⟨_, v, exec_rand2_of_accepted hr hok, by rw [hmap, hv, State.answerMapped_response], hvk⟩

/-- Integer bounds in order are not rejected (R153). -/
theorem HasIntValue.flt_eq_false {m n : Word} {M N : Int} (hm : HasIntValue m M) (hn : HasIntValue n N) (h : M ≤ N) :
    flt n m = false := by
  rw [flt_finite hn.1 hm.1, hn.2, hm.2, decide_eq_false_iff_not, Int.not_lt]
  exact Int.mul_le_mul_of_nonneg_right h units_pos.le

/-- Settles O45: the width is positive, and `m` is added to an integer of [0, N - M]. -/
theorem rand2AnswersAnIntegerInRange : Obligations.Rand2AnswersAnIntegerInRange := by
  intro m n s r M N hr hm hn hMN hM hN hW
  obtain ⟨w, hw, hmap⟩ := exists_integer_width hm hn (abs_le.2 ⟨by omega, hW⟩)
  rw [abs_le] at hM hN
  obtain ⟨c, hc⟩ : ∃ c : Nat, N - M + 1 = c := Int.eq_ofNat_of_zero_le (by omega)
  rw [hc] at hw
  obtain ⟨g, k, hscaled, hg, hkc, -, -⟩ := exists_summand_of_pos (drawnBits_lt r) (by omega) hw
  obtain ⟨t, v, ht, hv, hvk⟩ := exec_rand2_of_summand hr (.inr (hm.flt_eq_false hn hMN)) hm hg
    ((hmap _).trans (hscaled m)) (abs_lt.2 ⟨by omega, by omega⟩)
  exact ⟨t, v, k + M, ht, hv, hvk, by omega, by omega⟩

/-- Settles O46: the width is negative, and `m` is added to an integer of [N - M + 1, 0]. -/
theorem unhardenedRand2WithReversedBounds : Obligations.UnhardenedRand2WithReversedBounds := by
  intro m n s r M N hr hstrap hm hn hNM hM hN hW
  obtain ⟨w, hw, hmap⟩ := exists_integer_width hm hn hW
  rw [abs_le] at hM hN
  obtain ⟨c, hc⟩ : ∃ c : Nat, -(N - M + 1) = c := Int.eq_ofNat_of_zero_le (by omega)
  rw [← Int.neg_neg (N - M + 1), hc] at hw
  obtain ⟨g, k, hscaled, hg, hkc⟩ := exists_summand_of_neg (drawnBits_lt r) (by omega) hw
  obtain ⟨t, v, ht, hv, hvk⟩ := exec_rand2_of_summand hr (.inl hstrap) hm hg
    ((hmap _).trans (hscaled m)) (abs_lt.2 ⟨by omega, by omega⟩)
  exact ⟨t, v, -k + M, ht, hv, hvk, by omega, by omega⟩

end Sys2Proof.Machine
end

section
/-! PROOFS. The read-out (45_state_readout): the four words of DUMP's payload (R63, R170), and the text form by
character position (R171). -/

namespace Sys2Proof.Machine

theorem getLsbD_append_low {n m k : Nat} (x : BitVec n) (y : BitVec m) (hk : k < m) :
    (x ++ y).getLsbD k = y.getLsbD k := by
  rw [BitVec.getLsbD_append, if_pos hk]

theorem getLsbD_append_high {n m : Nat} (x : BitVec n) (y : BitVec m) (k : Nat) :
    (x ++ y).getLsbD (m + k) = x.getLsbD k := by
  rw [BitVec.getLsbD_append, if_neg (Nat.not_lt.2 (Nat.le_add_right m k)), Nat.add_sub_cancel_left]

/-- Bit `64i + j` of DUMP's payload is bit `j` of `r[i]`, dead bits included: `i` words are passed over (R63, R170). -/
theorem dumpPayload_getLsbD (r : Regs) (i : Fin 4) {j : Nat} (hj : j < 64) :
    (dumpPayload r).getLsbD (64 * i.val + j) = (r.get i).getLsbD j := by
  change BitVec.getLsbD (w := 64 + 64 + 64 + 64) (r.r3 ++ r.r2 ++ r.r1 ++ r.r0) _ = _
  match i with
  | 0 => rw [show 64 * (0 : Fin 4).val + j = j by omega, getLsbD_append_low _ _ hj, Regs.get_zero]
  | 1 =>
    rw [show 64 * (1 : Fin 4).val + j = 64 + j by omega, getLsbD_append_high, getLsbD_append_low _ _ hj,
      Regs.get_one]
  | 2 =>
    rw [show 64 * (2 : Fin 4).val + j = 64 + (64 + j) by omega, getLsbD_append_high, getLsbD_append_high,
      getLsbD_append_low _ _ hj, Regs.get_two]
  | 3 =>
    rw [show 64 * (3 : Fin 4).val + j = 64 + (64 + (64 + j)) by omega, getLsbD_append_high,
      getLsbD_append_high, getLsbD_append_high, Regs.get_three]

/-- Word `i` of DUMP's payload is `r[i]` (R170). -/
@[simp] theorem extractLsb'_dumpPayload (r : Regs) (i : Fin 4) :
    (dumpPayload r).extractLsb' (64 * i.val) 64 = r.get i := by
  refine BitVec.eq_of_getLsbD_eq fun j hj => ?_
  rw [BitVec.getLsbD_extractLsb', decide_eq_true hj, Bool.true_and, dumpPayload_getLsbD r i hj]

/-- DUMP on a seeded block answers the registers as they stand, and takes no step (R170). -/
theorem exec_dump_some {s : State} {r : Regs} (h : s.regs = some r) (a b : Word) :
    exec (.dump a b) s = respondOk (dumpPayload r) s :=
  whenSeeded_some h

/-- DUMP on a block not seeded answers `NotSeeded` (R183). -/
theorem exec_dump_none {s : State} (h : s.regs = none) (a b : Word) :
    exec (.dump a b) s = raise .notSeeded s :=
  whenSeeded_none h

/-- Settles O51: bit by bit, the payload is the four registers. -/
theorem dumpReadsTheRegisters : Obligations.DumpReadsTheRegisters :=
  fun a b _ => ⟨fun h => exec_dump_none h a b,
    fun r h => ⟨dumpPayload r, exec_dump_some h a b, fun i _ hj => dumpPayload_getLsbD r i hj⟩⟩

/-- `dump_state` of DUMP's payload is the text form of each register, in slot order (R73, R171). -/
theorem dumpState_dumpPayload (r : Regs) : dumpState (dumpPayload r) = slotOrder.map fun i => render (r.get i) := by
  simp only [dumpState, extractLsb'_dumpPayload]

/-- The text form by position: nine characters to a group, a space in the last place, before it the digits from bit
`63 - 8g` down (R171). -/
def renderedChar (v : Word) (k : Nat) : Char :=
  if k % 9 = 8 then ' ' else if v.getLsbD (63 - 8 * (k / 9) - k % 9) then '1' else '0'

theorem renderedChar_digit (v : Word) (g : Nat) {b : Nat} (hb : b < 8) :
    renderedChar v (9 * g + b) = if v.getLsbD (63 - 8 * g - b) then '1' else '0' := by
  have hdiv : (9 * g + b) / 9 = g := by omega
  have hmod : (9 * g + b) % 9 = b := by omega
  rw [renderedChar, hdiv, hmod, if_neg (by omega)]

theorem renderedChar_space (v : Word) {g : Nat} (hg : 0 < g) : renderedChar v (9 * g - 1) = ' ' :=
  if_pos (by omega)

/-- The eight groups written one after the other are the 71 positions: the space before group `g + 1` is position
`9g + 8`, and after the last group there is none (R171). -/
theorem renderChars_eq_map (v : Word) : renderChars v = (List.range 71).map (renderedChar v) := rfl

@[simp] theorem renderChars_length (v : Word) : (renderChars v).length = 71 := by
  rw [renderChars_eq_map, List.length_map, List.length_range]

theorem renderChars_getElem? (v : Word) {k : Nat} (hk : k < 71) : (renderChars v)[k]? = some (renderedChar v k) := by
  rw [renderChars_eq_map, List.getElem?_map, List.getElem?_range hk, Option.map_some]

/-- Settles O53: each character is read off its position, and each string off its word of the payload. -/
theorem renderingIsMostSignificantFirst : Obligations.RenderingIsMostSignificantFirst := by
  intro v
  refine ⟨renderChars_length v, rfl, fun g b hg hb => ?_, fun g hg0 hg => ?_, dumpState_dumpPayload⟩
  · rw [renderChars_getElem? v (by omega), renderedChar_digit v g hb]
  · rw [renderChars_getElem? v (by omega), renderedChar_space v hg0]

end Sys2Proof.Machine
end

section
/-! PROOFS. The conditions (60_exceptions): the one status of each command by the order of R186, and what a command that
raises a condition writes (R187). -/

namespace Sys2Proof.Machine

/-! ### An idle step, and the reserved opcode -/

/-- Settles O8: with no event the step is idle, and an idle step answers the state it is given. -/
theorem idleBlockHoldsItsState : Obligations.IdleBlockHoldsItsState := fun _ => step_idle

/-- Settles O52: the meaning of ILL is the condition, whatever the state and the operand words. -/
theorem reservedOpcodeIsIllegal : Obligations.ReservedOpcodeIsIllegal := fun _ _ _ => rfl

/-! ### What a raised condition writes -/

/-- A response with a condition is all that its command has written, and its payload is 0 (R187). -/
theorem exec_eq_answer_of_raised {i : Instr} {s t : State} {c : Condition} {p : Payload} (h : exec i s = .next t)
    (hc : t.response = some ⟨.raised c, p⟩) : p = 0 ∧ t = s.answer (.raised c) 0 := by
  obtain ⟨d, rfl⟩ | ⟨a, b, -, -, rfl⟩ | ⟨r, v, -, rfl | rfl⟩ | ⟨a, b, r, -, -, rfl⟩ := exec_next_cases h <;>
    cases hc
  exact ⟨rfl, rfl⟩

/-- Settles O12: a status other than OK is a condition, and a condition raised is the one answer of its command. -/
theorem faultingCommandChangesNothing : Obligations.FaultingCommandChangesNothing := by
  intro i s t ⟨st, p⟩ h hrsp hst
  cases st with
  | ok => exact absurd rfl hst
  | raised c =>
    obtain ⟨rfl, rfl⟩ := exec_eq_answer_of_raised h hrsp
    exact ⟨rfl, rfl⟩

/-! ### The status of a command -/

/-- The outcome is a next state whose response has the status `st` (R63). -/
def Answers (o : Result) (st : Status) : Prop :=
  ∃ t rsp, o = .next t ∧ t.response = some rsp ∧ rsp.status = st

theorem respondOk_answers (p : Payload) (s : State) : Answers (respondOk p s) .ok := ⟨_, _, rfl, rfl, rfl⟩

theorem raise_answers (c : Condition) (s : State) : Answers (raise c s) (.raised c) := ⟨_, _, rfl, rfl, rfl⟩

/-- A check answers with the status of the branch it takes. -/
theorem Answers.ite {c d : Prop} [Decidable c] [Decidable d] (hcd : c ↔ d) {o o' : Result} {st st' : Status}
    (h : Answers o st) (h' : Answers o' st') : Answers (if c then o else o') (if d then st else st') := by
  by_cases hc : c
  · rwa [if_pos hc, if_pos (hcd.1 hc)]
  · rwa [if_neg hc, if_neg (hcd.not.1 hc)]

/-- The seeded check comes before every status of the operation behind it (R183, R186). -/
theorem whenSeeded_answers {s : State} {op : Regs → Result} {st : Status} (hop : ∀ r, Answers (op r) st) :
    Answers (whenSeeded s op) (if s.seeded = false then .raised .notSeeded else st) := by
  cases hr : s.regs with
  | none =>
    rw [whenSeeded_none hr, if_pos (s.not_seeded_iff.2 hr)]
    exact raise_answers .notSeeded s
  | some r =>
    rw [whenSeeded_some hr, if_neg (by simp [s.not_seeded_iff, hr])]
    exact hop r

/-- The status of a command, by the order of R186. -/
def priorityStatus (i : Instr) (s : State) : Status :=
  match i with
  | .ill _ _ => .raised .illegalOp
  | .seed a _ => if expField a = 2047 then .raised .invalidSeed else .ok
  | .rand2 m n =>
    if s.seeded = false then .raised .notSeeded
    else if s.hardenedRange = true ∧ flt n m = true then .raised .invalidRange
    else .ok
  | _ => if s.seeded = false then .raised .notSeeded else .ok

/-- Every command answers, and with the status of R186. -/
theorem exec_answers (i : Instr) (s : State) : Answers (exec i s) (priorityStatus i s) := by
  cases i with
  | seed a b =>
    by_cases ha : expField a = 2047
    · rw [exec_seed_of_not_isFinite (fun h => bne_iff_ne.1 h ha), priorityStatus, if_pos ha]
      exact raise_answers .invalidSeed s
    · rw [exec_seed_of_isFinite (bne_iff_ne.2 ha), priorityStatus, if_neg ha]
      exact respondOk_answers 0 _
  | step a b => exact whenSeeded_answers fun _ => respondOk_answers _ _
  | frac a b => exact whenSeeded_answers fun _ => respondOk_answers _ _
  | rand0 a b => exact whenSeeded_answers fun _ => respondOk_answers _ _
  | rand1 m b => exact whenSeeded_answers fun _ => respondOk_answers _ _
  | rand2 m n =>
    exact whenSeeded_answers fun _ => .ite rangeRejected_iff (raise_answers .invalidRange s) (respondOk_answers _ _)
  | dump a b => exact whenSeeded_answers fun _ => respondOk_answers _ _
  | ill a b => exact raise_answers .illegalOp s

/-- Settles O11: each meaning makes its checks in the order of R186. -/
theorem statusFollowsThePriority : Obligations.StatusFollowsThePriority := by
  intro i s
  have h := exec_answers i s
  cases i <;> exact h

/-- A command answers a condition exactly when R186 gives it, and then with payload 0 (R187). -/
theorem exec_raised_iff {i : Instr} {s t : State} {c : Condition} {p : Payload} (h : exec i s = .next t) :
    t.response = some ⟨.raised c, p⟩ ↔ p = 0 ∧ priorityStatus i s = .raised c := by
  obtain ⟨u, ⟨st, q⟩, hu, hrsp, hst⟩ := exec_answers i s
  obtain rfl : t = u := Host.Outcome.next.inj (h.symm.trans hu)
  rw [← hst]
  constructor
  · intro hc
    cases hrsp.symm.trans hc
    exact ⟨(exec_eq_answer_of_raised h hc).1, rfl⟩
  · rintro ⟨rfl, rfl⟩
    obtain ⟨rfl, -⟩ := exec_eq_answer_of_raised h hrsp
    exact hrsp

/-! ### InvalidRange and NotSeeded -/

/-- `InvalidRange` is a status of RAND2 alone, behind the seeded check (R182, R186). -/
theorem priorityStatus_eq_invalidRange_iff {i : Instr} {s : State} :
    priorityStatus i s = .raised .invalidRange ↔
      s.seeded = true ∧ s.hardenedRange = true ∧ ∃ m n, i = .rand2 m n ∧ flt n m = true := by
  cases i with
  | rand2 m n => simp [priorityStatus, ite_eq_iff]
  | _ => simp [priorityStatus, ite_eq_iff]

/-- On a seeded block `NotSeeded` is the status of no command (R183). -/
theorem priorityStatus_ne_notSeeded {s : State} (hs : s.seeded = true) (i : Instr) :
    priorityStatus i s ≠ .raised .notSeeded := by
  cases i with
  | seed a b => simp [priorityStatus, ite_eq_iff]
  | rand2 m n => simp [priorityStatus, hs, ite_eq_iff]
  | _ => simp [priorityStatus, hs]

/-- With a NaN bound the difference of the bounds is NaN, and so is the value of RAND2 (R158). -/
theorem map2_nan {m n : Word} (h : isNaN m = true ∨ isNaN n = true) (f : Word) : map2 f m n = none :=
  map2_of_fsub_eq_none (fsub_nan h.symm)

/-- RAND2 takes a NaN bound with either strap, since no order holds of it, and answers a NaN (R153, R158). -/
theorem exec_rand2_of_isNaN {s : State} {r : Regs} (hr : s.regs = some r) {m n : Word}
    (h : isNaN m = true ∨ isNaN n = true) :
    ∃ t v, exec (.rand2 m n) s = .next t ∧ isNaN v = true ∧ t.response = some ⟨.ok, zext256 v⟩ := by
  have hexec := exec_rand2_of_accepted hr (.inr (flt_nan h.symm))
  rw [map2_nan h] at hexec
  exact ⟨_, s.nanDraw, hexec, s.isNaN_nanDraw, rfl⟩

/-- Settles O43: `InvalidRange` by the order of R186, and no command that raises it writes the registers. -/
theorem invalidRangeExactlyWhenHardenedAndReversed : Obligations.InvalidRangeExactlyWhenHardenedAndReversed := by
  refine ⟨fun i s t p h => ?_, fun i s t h hc => ?_, fun m n s r hr => exec_rand2_of_isNaN hr⟩
  · rw [exec_raised_iff h, priorityStatus_eq_invalidRange_iff]
  · rw [(exec_eq_answer_of_raised h hc).2, State.answer_regs]

/-- Settles O50: the seeded check is the first of each of the six operations, and fails on no seeded block. -/
theorem unseededOperationsAnswerNotSeeded : Obligations.UnseededOperationsAnswerNotSeeded := by
  refine ⟨fun a b s h => ?_, fun i s t p hs h hc => ?_⟩
  · exact ⟨whenSeeded_none h, exec_frac_of_unseeded h a b, exec_frac_of_unseeded h a b,
      exec_rand1_of_unseeded h a b, exec_rand2_of_unseeded h a b, exec_dump_none h a b⟩
  · exact priorityStatus_ne_notSeeded hs i ((exec_raised_iff h).1 hc).2

end Sys2Proof.Machine
end

section
/-! PROOFS. Reset and totality (70_reset_and_hazards): what the reset event leaves, what a block without registers
answers, and that every command and every step answers next. -/

namespace Sys2Proof.Machine

/-! ### The reset event -/

/-- A second reset leaves the state the first one left (R210). -/
theorem step_reset_of_applyReset (s : State) :
    step { s.applyReset with host := .reset :: s.host } = .next s.applyReset :=
  step_reset rfl

/-- Where no registers are held, every operation but SEED answers `NotSeeded`, the reserved opcode aside (R183). -/
theorem exec_of_unseeded {i : Instr} {s : State} (h : s.regs = none) (hseed : ∀ a b, i ≠ .seed a b)
    (hill : ∀ a b, i ≠ .ill a b) : exec i s = .next (s.answer (.raised .notSeeded) 0) := by
  cases i with
  | seed a b => exact absurd rfl (hseed a b)
  | step a b => exact whenSeeded_none h
  | frac a b => exact exec_frac_of_unseeded h a b
  | rand0 a b => exact exec_frac_of_unseeded h a b
  | rand1 m b => exact exec_rand1_of_unseeded h m b
  | rand2 m n => exact exec_rand2_of_unseeded h m n
  | dump a b => exact exec_dump_none h a b
  | ill a b => exact absurd rfl (hill a b)

/-- Settles O6: the state after the event is the reset one, a second reset changes nothing of it, and it holds no
registers. -/
theorem resetLeavesTheBlockUnseeded : Obligations.ResetLeavesTheBlockUnseeded := by
  intro s rest hhost
  refine ⟨State.applyReset { s with host := rest }, step_reset hhost, State.applyReset_seeded _, rfl,
    fun u hu => ?_, fun i => exec_of_unseeded (State.applyReset_regs _)⟩
  exact Host.Outcome.next.inj (hu.symm.trans (step_reset_of_applyReset { s with host := rest }))

/-! ### Totality -/

/-- Every command answers a next state (R224). -/
theorem exec_next (i : Instr) (s : State) : ∃ t, exec i s = .next t := by
  obtain ⟨t, -, h, -⟩ := exec_answers i s
  exact ⟨t, h⟩

/-- So does every step: a command by R224, a reset by R210, and an idle step as read from R197. -/
theorem step_next (s : State) : ∃ t, step s = .next t := by
  cases hhost : s.host with
  | nil => exact ⟨s, step_idle hhost⟩
  | cons e rest =>
    cases e with
    | reset => exact ⟨_, step_reset hhost⟩
    | command w =>
      rw [step_command hhost]
      exact exec_next (decode w) _

/-- Settles O9: a step takes the event it performs, and the response of a command is the one with its status. -/
theorem everyStepAnswersNext : Obligations.EveryStepAnswersNext := by
  refine ⟨fun s => ?_, fun i s => ?_⟩
  · obtain ⟨t, h⟩ := step_next s
    exact ⟨t, h, step_host h⟩
  · obtain ⟨t, rsp, h, hrsp, -⟩ := exec_answers i s
    exact ⟨t, rsp, h, hrsp, (exec_frame h).2⟩

end Sys2Proof.Machine
end
